-- ==== Sys2Proof/Word.lean ====
section
/-! DEFINITION. The two word types of the framer: a byte and a data-byte count. -/

namespace Sys2Proof

/-- A raw byte: unsigned, bit 7 most significant, bit 0 least (R6, D23). -/
abbrev Byte := BitVec 8

/-- The 2-bit register type of `LEN` and `REM` (R16, R17). -/
abbrev Count := BitVec 2

end Sys2Proof
end

