-- ==== Sys2Proof/Machine/Flags.lean ====
section
/-! DEFINITION. The one flag an accepted byte writes, `MSG_VALID` (R18, R26). There are no condition
codes. -/

namespace Sys2Proof.Machine

/-- A status byte completes its message when it requires no data byte (R64). -/
def validAfterStatus (n : Count) : Bool := n == 0

/-- A data byte completes the message when the old `REM` is 1 (R65). -/
def validAfterData (rem : Count) : Bool := rem == 1

end Sys2Proof.Machine
end

