-- ==== Sys2Proof/Syntax.lean ====
section
/-! DEFINITION. What the framer is fed: the input of one cycle, the phases, the message classes,
the message record, and the 17 rows of the opcode map as the inductive `Instr`. -/

namespace Sys2Proof

/-- The values of the four input ports during one cycle (R11). An input trace, the framer's
"program", is a list of these (R55). -/
structure In where
  /-- `rst`: synchronous reset, active high. -/
  rst : Bool
  /-- `rx_err`: the transport cannot deliver the bytes requested. -/
  rxErr : Bool
  /-- `rx_valid`: a byte is presented on `rx_data`. -/
  rxValid : Bool
  /-- `rx_data`: the byte. -/
  rxData : Byte
  deriving DecidableEq, Repr, Inhabited

/-- The trace element written as a byte literal in R55. -/
def In.byte (b : Byte) : In := ⟨false, false, true, b⟩

/-- The trace element `-` of R55, an idle cycle; `d` is the value nobody reads on `rx_data`. -/
def In.idle (d : Byte) : In := ⟨false, false, false, d⟩

/-- The trace element `ERR` of R55, `rx_valid = 0`. -/
def In.err (d : Byte) : In := ⟨false, true, false, d⟩

/-- The trace element `ERR+b` of R55: error and byte in the same cycle. -/
def In.errByte (b : Byte) : In := ⟨false, true, true, b⟩

/-- The trace element `RST` of R55; every other port has any value. -/
def In.reset (rxErr rxValid : Bool) (d : Byte) : In := ⟨true, rxErr, rxValid, d⟩

/-- The phase (R20): awaiting a status byte, the first data byte, the second data byte. -/
inductive Phase
  | s
  | d1
  | d2
  deriving DecidableEq, Repr

/-- The four message classes (R49). The class is held in no register and shown on no port (R52). -/
inductive MsgClass
  | channelVoice2
  | channelVoice1
  | systemRealtime
  | unclassified
  deriving DecidableEq, Repr

/-- A message as delivered on the output ports (R46): three slots and the length. -/
structure Message where
  status : Byte
  data1 : Byte
  data2 : Byte
  length : Count
  deriving DecidableEq, Repr

/-- One constructor per row of `opcode_table.json` (R53). The fields are the row's own fields: the
channel nibble where the row has `type` and `chan` fixed and free, the whole byte `b` where the
table names the whole byte, nothing where the byte is fixed, the data byte `d` for format D. -/
inductive Instr
  /-- `NOTE_OFF`, 0x80 to 0x8F (R75). -/
  | noteOff (chan : BitVec 4)
  /-- `NOTE_ON`, 0x90 to 0x9F (R76). -/
  | noteOn (chan : BitVec 4)
  /-- `CTRL_CHG`, 0xB0 to 0xBF (R77). -/
  | ctrlChg (chan : BitVec 4)
  /-- `PITCH_BEND`, 0xE0 to 0xEF (R78). -/
  | pitchBend (chan : BitVec 4)
  /-- `PROG_CHG`, 0xC0 to 0xCF (R80). -/
  | progChg (chan : BitVec 4)
  /-- `CHAN_PRES`, 0xD0 to 0xDF (R81). -/
  | chanPres (chan : BitVec 4)
  /-- `CLOCK`, 0xF8 (R82). -/
  | clock
  /-- `ACT_SENSE`, 0xFE (R83). -/
  | actSense
  /-- `UNCL_LOW`, 0x00 to 0x7F (R84). -/
  | unclLow (b : Byte)
  /-- `POLY_AT`, 0xA0 to 0xAF (R85). -/
  | polyAt (chan : BitVec 4)
  /-- `UNCL_F0_F7`, 0xF0 to 0xF7 (R86). -/
  | unclF0F7 (b : Byte)
  /-- `UNCL_F9`, 0xF9 (R87). -/
  | unclF9
  /-- `UNCL_FA_FB`, 0xFA and 0xFB (R88). -/
  | unclFAFB (b : Byte)
  /-- `UNCL_FC_FD`, 0xFC and 0xFD (R89). -/
  | unclFCFD (b : Byte)
  /-- `UNCL_FF`, 0xFF (R90). -/
  | unclFF
  /-- `DATA1`, any byte in phase D1 (R92). -/
  | data1 (d : Byte)
  /-- `DATA2`, any byte in phase D2 (R93). -/
  | data2 (d : Byte)
  deriving DecidableEq, Repr

end Sys2Proof
end

