-- ==== Sys2Proof/WellFormed.lean ====
section
/-! DEFINITION. Which instruction terms stand for a byte: a row that carries the whole byte holds
only the values the row's match and mask admit (R84, R86, R88, R89). -/

namespace Sys2Proof

/-- The operand range of each row (R53). Rows with a channel nibble, a fixed byte or a data byte
admit every operand their fields can hold. -/
def Instr.wellFormed : Instr → Bool
  | .noteOff _ => true
  | .noteOn _ => true
  | .ctrlChg _ => true
  | .pitchBend _ => true
  | .progChg _ => true
  | .chanPres _ => true
  | .clock => true
  | .actSense => true
  | .unclLow b => b &&& 0x80 == 0x00
  | .polyAt _ => true
  | .unclF0F7 b => b &&& 0xF8 == 0xF0
  | .unclF9 => true
  | .unclFAFB b => b &&& 0xFE == 0xFA
  | .unclFCFD b => b &&& 0xFE == 0xFC
  | .unclFF => true
  | .data1 _ => true
  | .data2 _ => true

/-- `i` stands for a byte of its row. -/
abbrev WellFormed (i : Instr) : Prop := i.wellFormed = true

end Sys2Proof
end

