-- ==== Sys2Proof/Decode.lean ====
section
/-! DEFINITION. The opcode map of R53 as rows of match and mask, the decoder read from it (total:
R54, R58), and after it the encoder. -/

namespace Sys2Proof

/-- One row of `opcode_table.json`: it applies to a byte `b` accepted in its phase when
`(b & mask) = match` (R53). -/
structure OpRow where
  mnemonic : String
  phase : Phase
  value : Byte
  mask : Byte
  cls : Option MsgClass
  deriving DecidableEq, Repr

/-- The match and mask test of R53. -/
def OpRow.hits (r : OpRow) (b : Byte) : Bool := b &&& r.mask == r.value

/-- Whether the row applies to a byte accepted in phase `p` (R47, R53). -/
def OpRow.applies (r : OpRow) (p : Phase) (b : Byte) : Bool := r.phase == p && r.hits b

def rowNoteOff : OpRow := ⟨"NOTE_OFF", .s, 0x80, 0xF0, some .channelVoice2⟩
def rowNoteOn : OpRow := ⟨"NOTE_ON", .s, 0x90, 0xF0, some .channelVoice2⟩
def rowCtrlChg : OpRow := ⟨"CTRL_CHG", .s, 0xB0, 0xF0, some .channelVoice2⟩
def rowPitchBend : OpRow := ⟨"PITCH_BEND", .s, 0xE0, 0xF0, some .channelVoice2⟩
def rowProgChg : OpRow := ⟨"PROG_CHG", .s, 0xC0, 0xF0, some .channelVoice1⟩
def rowChanPres : OpRow := ⟨"CHAN_PRES", .s, 0xD0, 0xF0, some .channelVoice1⟩
def rowClock : OpRow := ⟨"CLOCK", .s, 0xF8, 0xFF, some .systemRealtime⟩
def rowActSense : OpRow := ⟨"ACT_SENSE", .s, 0xFE, 0xFF, some .systemRealtime⟩
def rowUnclLow : OpRow := ⟨"UNCL_LOW", .s, 0x00, 0x80, some .unclassified⟩
def rowPolyAt : OpRow := ⟨"POLY_AT", .s, 0xA0, 0xF0, some .unclassified⟩
def rowUnclF0F7 : OpRow := ⟨"UNCL_F0_F7", .s, 0xF0, 0xF8, some .unclassified⟩
def rowUnclF9 : OpRow := ⟨"UNCL_F9", .s, 0xF9, 0xFF, some .unclassified⟩
def rowUnclFAFB : OpRow := ⟨"UNCL_FA_FB", .s, 0xFA, 0xFE, some .unclassified⟩
def rowUnclFCFD : OpRow := ⟨"UNCL_FC_FD", .s, 0xFC, 0xFE, some .unclassified⟩
def rowUnclFF : OpRow := ⟨"UNCL_FF", .s, 0xFF, 0xFF, some .unclassified⟩
def rowData1 : OpRow := ⟨"DATA1", .d1, 0x00, 0x00, none⟩
def rowData2 : OpRow := ⟨"DATA2", .d2, 0x00, 0x00, none⟩

/-- The 17 rows in the table's order (R53). -/
def opcodeRows : List OpRow :=
  [rowNoteOff, rowNoteOn, rowCtrlChg, rowPitchBend, rowProgChg, rowChanPres, rowClock,
    rowActSense, rowUnclLow, rowPolyAt, rowUnclF0F7, rowUnclF9, rowUnclFAFB, rowUnclFCFD,
    rowUnclFF, rowData1, rowData2]

/-- The row an instruction stands for. -/
def Instr.row : Instr → OpRow
  | .noteOff _ => rowNoteOff
  | .noteOn _ => rowNoteOn
  | .ctrlChg _ => rowCtrlChg
  | .pitchBend _ => rowPitchBend
  | .progChg _ => rowProgChg
  | .chanPres _ => rowChanPres
  | .clock => rowClock
  | .actSense => rowActSense
  | .unclLow _ => rowUnclLow
  | .polyAt _ => rowPolyAt
  | .unclF0F7 _ => rowUnclF0F7
  | .unclF9 => rowUnclF9
  | .unclFAFB _ => rowUnclFAFB
  | .unclFCFD _ => rowUnclFCFD
  | .unclFF => rowUnclFF
  | .data1 _ => rowData1
  | .data2 _ => rowData2

/-- `b[3:0]`, the field `chan` of format S (R45). -/
def chanOf (b : Byte) : BitVec 4 := b.extractLsb' 0 4

/-- A status byte accepted in phase S, decoded by value (R53). The rows are disjoint and cover all
256 values, so the order does not matter; the last row needs no test, since what the first fourteen
leave is 0xFF. -/
def decodeStatus (b : Byte) : Instr :=
  if rowNoteOff.hits b then .noteOff (chanOf b)
  else if rowNoteOn.hits b then .noteOn (chanOf b)
  else if rowCtrlChg.hits b then .ctrlChg (chanOf b)
  else if rowPitchBend.hits b then .pitchBend (chanOf b)
  else if rowProgChg.hits b then .progChg (chanOf b)
  else if rowChanPres.hits b then .chanPres (chanOf b)
  else if rowClock.hits b then .clock
  else if rowActSense.hits b then .actSense
  else if rowUnclLow.hits b then .unclLow b
  else if rowPolyAt.hits b then .polyAt (chanOf b)
  else if rowUnclF0F7.hits b then .unclF0F7 b
  else if rowUnclF9.hits b then .unclF9
  else if rowUnclFAFB.hits b then .unclFAFB b
  else if rowUnclFCFD.hits b then .unclFCFD b
  else .unclFF

/-- The decoder: the phase picks the format, and in format S the value picks the row (R47, R62).
Total, since no byte value is illegal in any phase (R54, R58). -/
def decode (p : Phase) (b : Byte) : Instr :=
  match p with
  | .s => decodeStatus b
  | .d1 => .data1 b
  | .d2 => .data2 b

/-- A byte of format S put together from its fields `type` (7:4) and `chan` (3:0) (R45). -/
def formatS (type chan : BitVec 4) : Byte := type ++ chan

/-- The encoder: the one byte of an instruction, from the encodings of R53. -/
def encode : Instr → Byte
  | .noteOff chan => formatS 0x8 chan
  | .noteOn chan => formatS 0x9 chan
  | .ctrlChg chan => formatS 0xB chan
  | .pitchBend chan => formatS 0xE chan
  | .progChg chan => formatS 0xC chan
  | .chanPres chan => formatS 0xD chan
  | .clock => 0xF8
  | .actSense => 0xFE
  | .unclLow b => b
  | .polyAt chan => formatS 0xA chan
  | .unclF0F7 b => b
  | .unclF9 => 0xF9
  | .unclFAFB b => b
  | .unclFCFD b => b
  | .unclFF => 0xFF
  | .data1 d => d
  | .data2 d => d

/-- The decoder on a table word. An instruction is one byte (R45), so any other width is no
instruction. The phase is no bit of the word (R45, R47); the word is read in phase S, the phase
after reset, so a word of the rows `DATA1` and `DATA2` reads as the status byte it is there (log
entry 7). -/
def decodeTableWord (nbits w : Nat) : Option Instr :=
  if nbits = 8 ∧ w < 256 then some (decode .s (BitVec.ofNat 8 w)) else none

end Sys2Proof
end

