-- ==== Sys2Proof/Config.lean ====
section
/-! DEFINITION. What an implementation fixes (R4) and the one free value, the environment's inputs
in the cycles for which none was placed in advance. -/

namespace Sys2Proof

/-- The two values the parameter `P_A0_LEN` may take (R4, D9): data bytes required after a status
byte with high nibble 0xA. -/
inductive A0Len
  | zero
  | two
  deriving DecidableEq, Repr

/-- `P_A0_LEN` of this hardware is 0 (R4, R85); log entry 3. -/
def Config.pA0Len : A0Len := .zero

/-- FREE VALUE, log entry 2: what the environment puts on the input ports in the `n`-th cycle for
which the state lists no input. Every claim quantifies over the input sequence (R9 item 1), so it
has no body and nothing can be proved of its values. -/
opaque Config.freeInput : Nat → In

end Sys2Proof
end

