-- ==== Sys2Proof/Machine/State.lean ====
section
/-! DEFINITION. The framer's state (R10), its outputs, its fault cause and refusals, and the state
after reset (R22). -/

namespace Sys2Proof.Machine

/-- The three slots of the message buffer, the framer's only storage (R30, R31). -/
inductive Slot
  /-- slot 0, the register `STATUS` -/
  | status
  /-- slot 1, the register `DATA1` -/
  | data1
  /-- slot 2, the register `DATA2` -/
  | data2
  deriving DecidableEq, Repr

/-- The seven registers of R10 and the environment's side of the input ports. -/
structure State where
  /-- `STATUS`, slot 0 (R13). -/
  status : Byte
  /-- `DATA1`, slot 1 (R14). -/
  data1 : Byte
  /-- `DATA2`, slot 2 (R15). -/
  data2 : Byte
  /-- `LEN`: data bytes the message in the buffer requires (R16). -/
  len : Count
  /-- `REM`: data bytes the open message still requires (R17). -/
  rem : Count
  /-- `MSG_VALID`: the buffer holds a just-completed message (R18). -/
  msgValid : Bool
  /-- `FAULT`: a transport error happened and no reset since (R19). -/
  fault : Bool
  /-- The environment's, not the framer's: the input-port values placed for the coming cycles, the
  next cycle's first (R11, R55; log entry 1). -/
  inputs : List In
  /-- The model's own: how many free inputs were drawn so far (log entry 2). -/
  drawn : Nat
  deriving DecidableEq, Repr

/-- The output ports (R12). -/
structure Out where
  msgValid : Bool
  msgStatus : Byte
  msgData1 : Byte
  msgData2 : Byte
  msgLen : Count
  rem : Count
  fault : Bool
  deriving DecidableEq, Repr

/-- The framer's exception causes: one, without payload (R100, D25). -/
inductive Fault
  /-- The transport reported that it cannot deliver (R101). Raised by a cycle with `rst = 0`,
  `FAULT = 0`, `rx_err = 1`, through `enterFault`, which records it in the register `FAULT`. The
  faulted framer still steps (R104), so no step ends a run with it; safe. -/
  | transportError
  deriving DecidableEq, Repr

/-- Why a step would have no meaning. -/
inductive Refusal
  /-- An instruction without a meaning in this model. No arm of `exec` answers it: every row of the
  opcode map has its meaning; safe. -/
  | notModelled (mnemonic : String)
  deriving DecidableEq, Repr

/-- `reset_state` (R22): all seven registers 0; no input placed, none drawn (log entries 1, 2). -/
def State.reset : State :=
  { status := 0x00
    data1 := 0x00
    data2 := 0x00
    len := 0
    rem := 0
    msgValid := false
    fault := false
    inputs := []
    drawn := 0 }

end Sys2Proof.Machine
end

