-- ==== Sys2Proof/Machine/Operands.lean ====
section
/-! DEFINITION. Where an accepted byte goes and what it requires: the phase (R20), the slot (R32),
the classifier and the data-byte count (R49 to R51), and the output ports (R12). -/

namespace Sys2Proof.Machine

/-- The phase, a function of `LEN` and `REM` (R20). -/
def phaseOf (s : State) : Phase :=
  if s.rem = 0 then .s
  else if s.rem = s.len then .d1
  else .d2

/-- The slot the next accepted byte is written to (R32). -/
def slotOf (s : State) : Slot :=
  match phaseOf s with
  | .s => .status
  | .d1 => .data1
  | .d2 => .data2

/-- The index of a slot (R31, D26). -/
def slotIndex : Slot → Nat
  | .status => 0
  | .data1 => 1
  | .data2 => 2

/-- `MemRead(a, 1)` (R31). -/
def memRead (a : Slot) (s : State) : Byte :=
  match a with
  | .status => s.status
  | .data1 => s.data1
  | .data2 => s.data2

/-- `MemWrite(a, 1, v)` (R31). -/
def memWrite (a : Slot) (v : Byte) (s : State) : State :=
  match a with
  | .status => { s with status := v }
  | .data1 => { s with data1 := v }
  | .data2 => { s with data2 := v }

/-- `b & 0xF0`, the source's spelling of the high nibble (R6). -/
def highNibble (b : Byte) : Byte := b &&& 0xF0

/-- The serial-byte classifier (R50): the whole byte for the two real-time values, the high nibble
for the rest; the fourth test is the parameter's (R4). -/
def classify (p : A0Len) (b : Byte) : MsgClass :=
  if b = 0xF8 ∨ b = 0xFE then .systemRealtime
  else if highNibble b = 0x80 ∨ highNibble b = 0x90 ∨ highNibble b = 0xB0 ∨
      highNibble b = 0xE0 then .channelVoice2
  else if highNibble b = 0xC0 ∨ highNibble b = 0xD0 then .channelVoice1
  else if highNibble b = 0xA0 ∧ p = .two then .channelVoice2
  else .unclassified

/-- The number of data bytes a class requires (R49). -/
def dbytes : MsgClass → Count
  | .channelVoice2 => 2
  | .channelVoice1 => 1
  | .systemRealtime => 0
  | .unclassified => 0

/-- The number of data bytes a status byte requires (R51). -/
def dlen (p : A0Len) (b : Byte) : Count := dbytes (classify p b)

/-- The output ports: each is a register, with no logic between (R12). -/
def out (s : State) : Out :=
  { msgValid := s.msgValid
    msgStatus := s.status
    msgData1 := s.data1
    msgData2 := s.data2
    msgLen := s.len
    rem := s.rem
    fault := s.fault }

/-- What the sink takes in this cycle: the message on the outputs when `msg_valid = 1`, nothing
otherwise (R12, R129, U12). -/
def delivered (s : State) : Option Message :=
  if (out s).msgValid = true then
    some ⟨(out s).msgStatus, (out s).msgData1, (out s).msgData2, (out s).msgLen⟩
  else none

end Sys2Proof.Machine
end

