-- ==== Sys2Proof/Machine/Ops.lean ====
section
/-! DEFINITION. The shared operations, one per branch of the step (R60): reset, the faulted
condition, fault entry, the idle cycle, the status-byte step and the data-byte step; and where the
input of a cycle comes from. -/

namespace Sys2Proof.Machine

/-- The input-port values of this cycle: the first placed input, or a free one (log entries 1, 2). -/
def nextInput (s : State) : In :=
  match s.inputs with
  | [] => Config.freeInput s.drawn
  | i :: _ => i

/-- The environment's side moves on by one cycle; the seven registers stay. -/
def popInput (s : State) : State :=
  match s.inputs with
  | [] => { s with drawn := s.drawn + 1 }
  | _ :: r => { s with inputs := r }

/-- TAKING THE EXCEPTION, branch 3 of R60: `FAULT <- 1`, `MSG_VALID <- 0`, everything else held; no
vector, no saved register, no mode change (R103). -/
def enterFault (cause : Fault) (s : State) : State :=
  match cause with
  | .transportError => { s with fault := true, msgValid := false }

/-- THE ONLY WAY BACK from the exception, and start-up: branch 1 of R60, all seven registers to
their reset values (R105, R120). What the environment will present afterwards is not the framer's
and stays. -/
def resetRegisters (s : State) : State :=
  { s with
    status := State.reset.status
    data1 := State.reset.data1
    data2 := State.reset.data2
    len := State.reset.len
    rem := State.reset.rem
    msgValid := State.reset.msgValid
    fault := State.reset.fault }

/-- A cycle in the faulted condition, branch 2 of R60 (R104). -/
def holdFaulted (s : State) : State := { s with msgValid := false }

/-- An idle cycle, branch 4 of R60 (R61). -/
def idleCycle (s : State) : State := { s with msgValid := false }

/-- The status-byte step, branch 5 of R60, common to the 15 format S rows (R64). The argument `p` is
`P_A0_LEN`. -/
def statusByteStep (p : A0Len) (b : Byte) (s : State) : State :=
  { s with
    status := b
    data1 := 0x00
    data2 := 0x00
    len := dlen p b
    rem := dlen p b
    msgValid := validAfterStatus (dlen p b) }

/-- The data-byte step, branch 6 of R60, common to the two format D rows (R65): one slot, the count
down by one, `MSG_VALID` by the old count. -/
def dataByteStep (a : Slot) (d : Byte) (s : State) : State :=
  { memWrite a d s with rem := s.rem - 1, msgValid := validAfterData s.rem }

/-- Whether a cycle accepts the byte presented in it (R7 "Accept", R62). -/
def accepts (i : In) (s : State) : Bool := !i.rst && !s.fault && !i.rxErr && i.rxValid

end Sys2Proof.Machine
end

