-- ==== Sys2Proof/Machine/ChannelVoice1.lean ====
section
/-! DEFINITION. Status bytes of class ChannelVoice1, one data byte (42_channel_voice1.md). -/

namespace Sys2Proof.Machine

/-- `PROG_CHG` (R80). -/
def execProgChg (chan : BitVec 4) (s : State) : Host.Outcome State Fault Refusal :=
  .next (statusByteStep Config.pA0Len (formatS 0xC chan) s)

/-- `CHAN_PRES` (R81). -/
def execChanPres (chan : BitVec 4) (s : State) : Host.Outcome State Fault Refusal :=
  .next (statusByteStep Config.pA0Len (formatS 0xD chan) s)

end Sys2Proof.Machine
end

