-- ==== Sys2Proof/Machine/ChannelVoice2.lean ====
section
/-! DEFINITION. Status bytes of class ChannelVoice2, two data bytes (41_channel_voice2.md). -/

namespace Sys2Proof.Machine

/-- `NOTE_OFF` (R75). -/
def execNoteOff (chan : BitVec 4) (s : State) : Host.Outcome State Fault Refusal :=
  .next (statusByteStep Config.pA0Len (formatS 0x8 chan) s)

/-- `NOTE_ON` (R76). -/
def execNoteOn (chan : BitVec 4) (s : State) : Host.Outcome State Fault Refusal :=
  .next (statusByteStep Config.pA0Len (formatS 0x9 chan) s)

/-- `CTRL_CHG` (R77). -/
def execCtrlChg (chan : BitVec 4) (s : State) : Host.Outcome State Fault Refusal :=
  .next (statusByteStep Config.pA0Len (formatS 0xB chan) s)

/-- `PITCH_BEND` (R78). -/
def execPitchBend (chan : BitVec 4) (s : State) : Host.Outcome State Fault Refusal :=
  .next (statusByteStep Config.pA0Len (formatS 0xE chan) s)

end Sys2Proof.Machine
end

