-- ==== Sys2Proof/Machine/DataBytes.lean ====
section
/-! DEFINITION. The two data-byte rows, selected by the phase (45_data_bytes.md). -/

namespace Sys2Proof.Machine

/-- `DATA1` (R92). -/
def execData1 (d : Byte) (s : State) : Host.Outcome State Fault Refusal :=
  .next (dataByteStep .data1 d s)

/-- `DATA2` (R93). -/
def execData2 (d : Byte) (s : State) : Host.Outcome State Fault Refusal :=
  .next (dataByteStep .data2 d s)

end Sys2Proof.Machine
end

