-- ==== Sys2Proof/Machine/SystemRealtime.lean ====
section
/-! DEFINITION. Status bytes of class SystemRealtime, no data bytes (43_system_realtime.md). -/

namespace Sys2Proof.Machine

/-- `CLOCK` (R82). -/
def execClock (s : State) : Host.Outcome State Fault Refusal :=
  .next (statusByteStep Config.pA0Len 0xF8 s)

/-- `ACT_SENSE` (R83). -/
def execActSense (s : State) : Host.Outcome State Fault Refusal :=
  .next (statusByteStep Config.pA0Len 0xFE s)

end Sys2Proof.Machine
end

