-- ==== Sys2Proof/Machine/Unclassified.lean ====
section
/-! DEFINITION. Status bytes of class Unclassified, passed through as one-byte messages
(44_unclassified.md). -/

namespace Sys2Proof.Machine

/-- `UNCL_LOW` (R84). -/
def execUnclLow (b : Byte) (s : State) : Host.Outcome State Fault Refusal :=
  .next (statusByteStep Config.pA0Len b s)

/-- `POLY_AT` with `P_A0_LEN` as its argument (R4, R85): the one row whose count is the parameter. -/
def execPolyAtWith (p : A0Len) (chan : BitVec 4) (s : State) : Host.Outcome State Fault Refusal :=
  .next (statusByteStep p (formatS 0xA chan) s)

/-- `POLY_AT` (R85) of this hardware. -/
def execPolyAt (chan : BitVec 4) (s : State) : Host.Outcome State Fault Refusal :=
  execPolyAtWith Config.pA0Len chan s

/-- `UNCL_F0_F7` (R86). -/
def execUnclF0F7 (b : Byte) (s : State) : Host.Outcome State Fault Refusal :=
  .next (statusByteStep Config.pA0Len b s)

/-- `UNCL_F9` (R87). -/
def execUnclF9 (s : State) : Host.Outcome State Fault Refusal :=
  .next (statusByteStep Config.pA0Len 0xF9 s)

/-- `UNCL_FA_FB` (R88). -/
def execUnclFAFB (b : Byte) (s : State) : Host.Outcome State Fault Refusal :=
  .next (statusByteStep Config.pA0Len b s)

/-- `UNCL_FC_FD` (R89). -/
def execUnclFCFD (b : Byte) (s : State) : Host.Outcome State Fault Refusal :=
  .next (statusByteStep Config.pA0Len b s)

/-- `UNCL_FF` (R90). -/
def execUnclFF (s : State) : Host.Outcome State Fault Refusal :=
  .next (statusByteStep Config.pA0Len 0xFF s)

end Sys2Proof.Machine
end

