-- ==== Sys2Proof/Machine/Dispatch.lean ====
section
/-! DEFINITION. The dispatch of an accepted byte, one arm per row of the opcode map (R53, R62). -/

namespace Sys2Proof.Machine

def exec (i : Instr) (s : State) : Host.Outcome State Fault Refusal :=
  match i with
  | .noteOff chan => Sys2Proof.Machine.execNoteOff chan s
  | .noteOn chan => Sys2Proof.Machine.execNoteOn chan s
  | .ctrlChg chan => Sys2Proof.Machine.execCtrlChg chan s
  | .pitchBend chan => Sys2Proof.Machine.execPitchBend chan s
  | .progChg chan => Sys2Proof.Machine.execProgChg chan s
  | .chanPres chan => Sys2Proof.Machine.execChanPres chan s
  | .clock => Sys2Proof.Machine.execClock s
  | .actSense => Sys2Proof.Machine.execActSense s
  | .unclLow b => Sys2Proof.Machine.execUnclLow b s
  | .polyAt chan => Sys2Proof.Machine.execPolyAt chan s
  | .unclF0F7 b => Sys2Proof.Machine.execUnclF0F7 b s
  | .unclF9 => Sys2Proof.Machine.execUnclF9 s
  | .unclFAFB b => Sys2Proof.Machine.execUnclFAFB b s
  | .unclFCFD b => Sys2Proof.Machine.execUnclFCFD b s
  | .unclFF => Sys2Proof.Machine.execUnclFF s
  | .data1 d => Sys2Proof.Machine.execData1 d s
  | .data2 d => Sys2Proof.Machine.execData2 d s

end Sys2Proof.Machine
end

