-- ==== Sys2Proof/Machine/Cycle.lean ====
section
/-! DEFINITION. One clock cycle on given input-port values (R60, R110), and the framer loaded with a
byte for its next cycle. -/

namespace Sys2Proof.Machine

/-- One cycle with the inputs `i`: the first branch that applies (R60, R110). An accepted byte is
decoded in the current phase and executed by `run` (R62). -/
def cycleBy (run : Instr → State → Host.Outcome State Fault Refusal) (i : In) (s : State) :
    Host.Outcome State Fault Refusal :=
  if i.rst then .next (resetRegisters s)
  else if s.fault then .next (holdFaulted s)
  else if i.rxErr then .next (enterFault .transportError s)
  else if i.rxValid then run (decode (phaseOf s) i.rxData) s
  else .next (idleCycle s)

/-- One cycle of this hardware. -/
def cycle (i : In) (s : State) : Host.Outcome State Fault Refusal := cycleBy exec i s

/-- The next cycle presents the byte `b` and accepts it as a status byte: it stands first among the
placed inputs, in the place of the input that stood there, and the framer is in phase S and not
faulted (log entry 7). -/
def presentStatus (b : Byte) (s : State) : State :=
  { s with inputs := In.byte b :: s.inputs.drop 1, rem := 0, fault := false }

end Sys2Proof.Machine
end

