-- ==== Sys2Proof/Machine/Step.lean ====
section
/-! DEFINITION. The step: one clock cycle on the inputs of that cycle (R60). -/

namespace Sys2Proof.Machine

/-- `S(t+1) = step(S(t), in(t))` (R60), with `in(t)` taken from the state. -/
def step (s : State) : Host.Outcome State Fault Refusal := cycle (nextInput s) (popInput s)

/-- `s` with the table word `w` presented as the byte of its next cycle, in phase S. -/
def State.withFetchWord (s : State) (_nbits w : Nat) : State := presentStatus (BitVec.ofNat 8 w) s

end Sys2Proof.Machine
end

