-- ==== Sys2Proof/Machine/Parameter.lean ====
section
/-! DEFINITION. The machine with `P_A0_LEN` as its argument (R4, R85, D9). This hardware is the case
`Config.pA0Len` (log entry 3). -/

namespace Sys2Proof.Machine

/-- `exec` with `P_A0_LEN` as its argument: one row, `POLY_AT`, depends on it (R50, R85). -/
def execWith (p : A0Len) (i : Instr) (s : State) : Host.Outcome State Fault Refusal :=
  match i with
  | .noteOff chan => execNoteOff chan s
  | .noteOn chan => execNoteOn chan s
  | .ctrlChg chan => execCtrlChg chan s
  | .pitchBend chan => execPitchBend chan s
  | .progChg chan => execProgChg chan s
  | .chanPres chan => execChanPres chan s
  | .clock => execClock s
  | .actSense => execActSense s
  | .unclLow b => execUnclLow b s
  | .polyAt chan => execPolyAtWith p chan s
  | .unclF0F7 b => execUnclF0F7 b s
  | .unclF9 => execUnclF9 s
  | .unclFAFB b => execUnclFAFB b s
  | .unclFCFD b => execUnclFCFD b s
  | .unclFF => execUnclFF s
  | .data1 d => execData1 d s
  | .data2 d => execData2 d s

/-- One cycle with `P_A0_LEN` as its argument (R60). -/
def cycleWith (p : A0Len) (i : In) (s : State) : Host.Outcome State Fault Refusal :=
  cycleBy (execWith p) i s

/-- `step` with `P_A0_LEN` as its argument (R60). -/
def stepWith (p : A0Len) (s : State) : Host.Outcome State Fault Refusal :=
  cycleWith p (nextInput s) (popInput s)

end Sys2Proof.Machine
end

