-- ==== Sys2Proof/Machine/Stream.lean ====
section
/-! DEFINITION. The stream level: the source's `frames` (R68), the event form `accept` (R70), and
what a run of steps delivers, in the terms R69 relates them in. -/

namespace Sys2Proof.Machine

/-- `frames` (R68): the messages of a finite prefix of the byte stream. A trailing incomplete
message produces nothing. -/
def frames (p : A0Len) : List Byte → List Message
  | [] => []
  | b :: r =>
    match (dlen p b).toNat, r with
    | 0, r => ⟨b, 0x00, 0x00, 0⟩ :: frames p r
    | 1, d :: r => ⟨b, d, 0x00, 1⟩ :: frames p r
    | 2, d :: e :: r => ⟨b, d, e, 2⟩ :: frames p r
    | _, _ => []

/-- The number of data bytes the trailing incomplete message of a byte list still lacks, 0 if there
is none (R68, R69 item 4). -/
def outstanding (p : A0Len) : List Byte → Nat
  | [] => 0
  | b :: r =>
    match (dlen p b).toNat, r with
    | 0, r => outstanding p r
    | 1, _ :: r => outstanding p r
    | 2, _ :: _ :: r => outstanding p r
    | n, r => n - r.length

/-- `accept` (R70), for a cycle whose instructions run by `run`: a cycle that presents `b` and
nothing else, with the message it completes. -/
def acceptBy (run : Instr → State → Host.Outcome State Fault Refusal) (s : State) (b : Byte) :
    State × Option Message :=
  match cycleBy run (In.byte b) s with
  | .next t => (t, delivered t)
  | .fault _ => (s, none)
  | .refused _ => (s, none)

/-- `acceptBy` folded over a byte list, the completed messages collected (R70). -/
def acceptAllBy (run : Instr → State → Host.Outcome State Fault Refusal) :
    State → List Byte → List Message
  | _, [] => []
  | s, b :: r => (acceptBy run s b).2.toList ++ acceptAllBy run (acceptBy run s b).1 r

/-- `accept` of this hardware (R70). -/
def accept (s : State) (b : Byte) : State × Option Message := acceptBy exec s b

/-- `accept` of this hardware folded over a byte list (R70). -/
def acceptAll (s : State) (bs : List Byte) : List Message := acceptAllBy exec s bs

/-- `accept` with `P_A0_LEN` as its argument (R70, R4). -/
def acceptWith (p : A0Len) (s : State) (b : Byte) : State × Option Message :=
  acceptBy (execWith p) s b

/-- `acceptAll` with `P_A0_LEN` as its argument (R70, R4). -/
def acceptAllWith (p : A0Len) (s : State) (bs : List Byte) : List Message :=
  acceptAllBy (execWith p) s bs

/-- The bytes an input trace presents, in order (R69). -/
def presented (is : List In) : List Byte :=
  is.filterMap fun i => if i.rxValid then some i.rxData else none

/-- What the sink takes in the cycle after each of the next `k` steps (R12, R129). -/
def deliveries : Nat → State → List (Option Message)
  | 0, _ => []
  | k + 1, s =>
    match step s with
    | .next t => delivered t :: deliveries k t
    | .fault _ => []
    | .refused _ => []

end Sys2Proof.Machine
end

