-- ==== Sys2Proof/Safety.lean ====
section
/-! DEFINITION. The terms claims use: the invariants of R21, the control part of the reachable set,
and the state with a given trace placed. -/

namespace Sys2Proof.Machine

/-- The six invariants of R21, with `P_A0_LEN` as an argument. -/
abbrev FramerInvWith (p : A0Len) (s : State) : Prop :=
  (s.len ≠ 3 ∧ s.rem ≤ s.len) ∧
  s.len = dlen p s.status ∧
  (s.msgValid = true → s.rem = 0) ∧
  (s.fault = true → s.msgValid = false) ∧
  (s.len.toNat - s.rem.toNat < 1 → s.data1 = 0x00) ∧
  (s.len.toNat - s.rem.toNat < 2 → s.data2 = 0x00)

/-- The six invariants of R21, with `P_A0_LEN` of this hardware. -/
abbrev FramerInv (s : State) : Prop := FramerInvWith Config.pA0Len s

/-- The seven registers of R10, the model's own two fields put aside (log entries 1, 2). -/
def registersOf (s : State) : State := { s with inputs := [], drawn := 0 }

/-- The control part of a state (R21): `FAULT`, `LEN`, `REM`, `MSG_VALID`. -/
def controlOf (s : State) : Bool × Count × Count × Bool := (s.fault, s.len, s.rem, s.msgValid)

/-- The 15 control parts R21 lists as reachable. -/
def reachableControls : List (Bool × Count × Count × Bool) :=
  [(false, 0, 0, false), (false, 0, 0, true), (false, 1, 0, false), (false, 1, 0, true),
    (false, 2, 0, false), (false, 2, 0, true),
    (false, 1, 1, false), (false, 2, 1, false), (false, 2, 2, false),
    (true, 0, 0, false), (true, 1, 0, false), (true, 2, 0, false),
    (true, 1, 1, false), (true, 2, 1, false), (true, 2, 2, false)]

/-- `s` with the trace `is` placed as its coming inputs, before those placed already. -/
def place (is : List In) (s : State) : State := { s with inputs := is ++ s.inputs }

/-- The state is at a message boundary: running, with no message open (R35). -/
abbrev AtBoundary (s : State) : Prop := s.fault = false ∧ s.rem = 0

end Sys2Proof.Machine
end

