-- ==== Sys2Proof/Certificates/Slice0/Obligations.lean ====
section
/-! DEFINITION. The statements for the provers, from the numbered rules of spec/. Where a statement
ranges over states, it holds in states no run reaches as well, unless it assumes `FramerInv` (R21), which
`Obligations.InvariantKeptByEveryStep` and `Obligations.InvariantHoldsAtReset` are about. -/

open Sys2Proof Sys2Proof.Machine

/-! ### Reset and invariants -/

/-- R22: `reset_state`, and what it means: phase S, no message on the outputs, no fault. -/
def Obligations.ResetStateIsAllZeroInPhaseS : Prop :=
  State.reset.status = 0x00 ∧ State.reset.data1 = 0x00 ∧ State.reset.data2 = 0x00 ∧
  State.reset.len = 0 ∧ State.reset.rem = 0 ∧ State.reset.msgValid = false ∧
  State.reset.fault = false ∧ phaseOf State.reset = .s ∧ delivered State.reset = none

/-- R21: the invariants hold in the reset state. -/
def Obligations.InvariantHoldsAtReset : Prop := FramerInv State.reset

/-- R21: every step keeps the six invariants, from every state that has them, whatever the inputs. -/
def Obligations.InvariantKeptByEveryStep : Prop :=
  ∀ s t : State, FramerInv s → step s = .next t → FramerInv t

/-- R21: over all runs from reset, whatever inputs are placed, every state reached satisfies the
six invariants, and the control parts reached are exactly the 15 of the table. -/
def Obligations.ReachableControlPartsAreTheFifteen : Prop :=
  (∀ (is : List In) (k : Nat) (t : State),
    Host.Core.run Sys2Proof.core k (place is State.reset) = .next t → FramerInv t) ∧
  ∀ c : Bool × Count × Count × Bool,
    c ∈ reachableControls ↔
      ∃ (is : List In) (t : State),
        Host.Core.run Sys2Proof.core is.length (place is State.reset) = .next t ∧ controlOf t = c

/-- R120: from any state and whatever the other inputs, a cycle with `rst = 1` leaves the seven
registers at their reset values. What is placed for later cycles stays, and so does the counter of
free inputs: those two are the model's own fields (log entries 1, 2). -/
def Obligations.RstForcesResetStateFromAnyState : Prop :=
  ∀ (s : State) (e v : Bool) (d : Byte) (rest : List In),
    s.inputs = In.reset e v d :: rest →
    step s = .next
      { status := 0x00, data1 := 0x00, data2 := 0x00, len := 0, rem := 0, msgValid := false,
        fault := false, inputs := rest, drawn := s.drawn }

/-- R121: after a cycle with `rst = 1` the framer keeps no trace of what was before it. Two framers
in any two states whatever, facing the same environment, deliver the same from then on. -/
def Obligations.BehaviourAfterResetDependsOnLaterInputsAlone : Prop :=
  ∀ (s s' : State) (k : Nat), s.inputs = s'.inputs → s.drawn = s'.drawn →
    (nextInput s).rst = true →
    deliveries (k + 1) s = deliveries (k + 1) s' ∧
    Host.Core.run Sys2Proof.core (k + 1) s = Host.Core.run Sys2Proof.core (k + 1) s'

/-! ### The step -/

/-- R60 with the priority of R110: for every state, reachable or not, and every input, the step has
exactly one result, that of the first branch whose condition holds. The inputs are the first placed
ones, or free ones where none is placed, and no branch, reset among them, does more to the model's
own two fields than take the input of its cycle: that is the model's choice (log entries 1, 2). -/
def Obligations.StepIsTheFirstBranchThatApplies : Prop :=
  ∀ s : State,
    let i := nextInput s
    let s₀ := popInput s
    step s = .next
      (if i.rst = true then
        { s₀ with status := 0x00, data1 := 0x00, data2 := 0x00, len := 0, rem := 0,
                  msgValid := false, fault := false }
      else if s.fault = true then { s₀ with msgValid := false }
      else if i.rxErr = true then { s₀ with fault := true, msgValid := false }
      else if i.rxValid = false then { s₀ with msgValid := false }
      else if s.rem = 0 then
        let n := dlen Config.pA0Len i.rxData
        { s₀ with status := i.rxData, data1 := 0x00, data2 := 0x00, len := n, rem := n,
                  msgValid := decide (n = 0) }
      else
        let s₁ := if s.rem = s.len then { s₀ with data1 := i.rxData }
                  else { s₀ with data2 := i.rxData }
        { s₁ with rem := s.rem - 1, msgValid := decide (s.rem = 1) })

/-- R62 and R47: a cycle that accepts its byte runs the instruction the byte decodes to in the
current phase, on the state with that cycle's input taken; the decoded instruction is well-formed,
and the input taken is the first one placed. -/
def Obligations.StepRunsTheDecodedInstruction : Prop :=
  (∀ (s : State) (i : Instr), accepts (nextInput s) s = true →
    decode (phaseOf s) (nextInput s).rxData = i →
    WellFormed i ∧ step s = exec i (popInput s)) ∧
  ∀ (s : State) (x : In) (rest : List In), s.inputs = x :: rest →
    nextInput s = x ∧ popInput s = { s with inputs := rest }

/-- R63: what each branch reads. Inputs a branch does not read do not matter to it. Branch 1 reads
no register; branches 2 to 4 read none but `FAULT`: with any other values in the other six, the same
happens, and those values stay. Branch 5 does not read `LEN`, `STATUS`, `DATA1`, `DATA2`; branch 6
does not inspect the byte and reads no register but `REM` and `LEN`, the slot it writes taking the
same byte whatever the three slots held. No branch reads `MSG_VALID`. -/
def Obligations.BranchesReadOnlyWhatTheyShould : Prop :=
  (∀ (s s' : State) (i j : In), s.inputs = s'.inputs → s.drawn = s'.drawn →
    i.rst = true → j.rst = true → cycle i s = cycle j s') ∧
  (∀ (s : State) (i j : In), s.fault = true → i.rst = false → j.rst = false →
    cycle i s = cycle j s) ∧
  (∀ (s : State) (i j : In), s.fault = false → i.rst = false → j.rst = false →
    i.rxErr = true → j.rxErr = true → cycle i s = cycle j s) ∧
  (∀ (s : State) (i j : In), s.fault = false → i.rst = false → j.rst = false →
    i.rxErr = false → j.rxErr = false → i.rxValid = false → j.rxValid = false →
    cycle i s = cycle j s) ∧
  (∀ (s : State) (i : In) (st d e : Byte) (l : Count), accepts i s = true → s.rem = 0 →
    cycle i s = cycle i { s with status := st, data1 := d, data2 := e, len := l }) ∧
  (∀ (s t : State) (i : In) (st d e : Byte) (l m : Count), i.rst = false →
    accepts i s = false → cycle i s = .next t →
    cycle i { s with status := st, data1 := d, data2 := e, len := l, rem := m } =
      .next { t with status := st, data1 := d, data2 := e, len := l, rem := m }) ∧
  (∀ (s t : State) (i : In) (st d e : Byte), accepts i s = true → s.rem ≠ 0 →
    cycle i s = .next t →
    cycle i { s with status := st, data1 := d, data2 := e } =
      .next { t with status := st
                     data1 := if s.rem = s.len then t.data1 else d
                     data2 := if s.rem = s.len then e else t.data2 }) ∧
  (∀ (s t t' : State) (b c : Byte), s.fault = false → s.rem ≠ 0 →
    cycle (In.byte b) s = .next t → cycle (In.byte c) s = .next t' →
    t' = { t with data1 := if s.rem = s.len then c else s.data1,
                  data2 := if s.rem = s.len then s.data2 else c }) ∧
  ∀ (s : State) (i : In) (v : Bool), cycle i { s with msgValid := v } = cycle i s

/-- R18: every step writes `MSG_VALID`; it is 1 exactly after a step that accepts the last byte of a
message, a status byte with `dlen = 0` or a data byte with `REM = 1`, and 0 after any other. No step
reads it, the port `msg_valid` shows it, and it is 0 in the reset state. -/
def Obligations.MsgValidMarksExactlyTheCompletingByte : Prop :=
  (∀ s t : State, step s = .next t →
    (t.msgValid = true ↔
      (nextInput s).rst = false ∧ s.fault = false ∧ (nextInput s).rxErr = false ∧
        (nextInput s).rxValid = true ∧
        ((s.rem = 0 ∧ dlen Config.pA0Len (nextInput s).rxData = 0) ∨ s.rem = 1))) ∧
  (∀ (s : State) (v : Bool), step { s with msgValid := v } = step s) ∧
  (∀ s : State, (out s).msgValid = s.msgValid) ∧ State.reset.msgValid = false

/-- The column "written by" of R10: a register that differs after a step was written by one of the
steps the table names for it, or by reset. -/
def Obligations.RegistersAreWrittenOnlyByTheirSteps : Prop :=
  ∀ s t : State, step s = .next t →
    let i := nextInput s
    let statusStep := accepts i s = true ∧ phaseOf s = .s
    let dataStep1 := accepts i s = true ∧ phaseOf s = .d1
    let dataStep2 := accepts i s = true ∧ phaseOf s = .d2
    (t.status ≠ s.status → i.rst = true ∨ statusStep) ∧
    (t.data1 ≠ s.data1 → i.rst = true ∨ statusStep ∨ dataStep1) ∧
    (t.data2 ≠ s.data2 → i.rst = true ∨ statusStep ∨ dataStep2) ∧
    (t.len ≠ s.len → i.rst = true ∨ statusStep) ∧
    (t.rem ≠ s.rem → i.rst = true ∨ statusStep ∨ dataStep1 ∨ dataStep2) ∧
    (t.fault ≠ s.fault →
      i.rst = true ∨ (i.rst = false ∧ s.fault = false ∧ i.rxErr = true))

/-- R61: any number of idle cycles changes nothing but `MSG_VALID`, which becomes 0; an open message
stays open, whatever stands on `rx_data`. -/
def Obligations.IdleCyclesOnlyClearMsgValid : Prop :=
  ∀ (s : State) (ds : List Byte), s.fault = false →
    Host.Core.run Sys2Proof.core ds.length (place (ds.map In.idle) s) =
      .next { s with msgValid := if ds = [] then s.msgValid else false }

/-! ### Decoding -/

/-- R53: bytes written out bit by bit from the table's encodings decode to their rows, one and more
of each family; in phases D1 and D2 every byte is data, whatever its value (R47). -/
def Obligations.SpecBytesDecodeToTheirRows : Prop :=
  decode .s 0b10001111#8 = .noteOff 0xF ∧ decode .s 0b10010000#8 = .noteOn 0x0 ∧
  decode .s 0b11000101#8 = .progChg 0x5 ∧ decode .s 0b11011111#8 = .chanPres 0xF ∧
  decode .s 0b11111000#8 = .clock ∧ decode .s 0b11111110#8 = .actSense ∧
  decode .s 0b01111111#8 = .unclLow 0x7F ∧ decode .s 0b10100101#8 = .polyAt 0x5 ∧
  decode .s 0b11111011#8 = .unclFAFB 0xFB ∧
  decode .d1 0b10010000#8 = .data1 0x90 ∧ decode .d2 0b11111000#8 = .data2 0xF8 ∧
  ∀ b : Byte, decode .d1 b = .data1 b ∧ decode .d2 b = .data2 b

/-- Decoding the encoding of any well-formed instruction, in its row's phase, gives it back with
every operand (R53, R47). -/
def Obligations.DecodeOfEncodeIsTheInstruction : Prop :=
  ∀ i : Instr, WellFormed i → decode i.row.phase (encode i) = i

/-- In every phase every byte decodes to a well-formed instruction of a row of that phase, whose
encoding is the byte: nothing is dropped and nothing is rejected (R53, R54). -/
def Obligations.EncodeOfDecodeIsTheByte : Prop :=
  ∀ (p : Phase) (b : Byte),
    encode (decode p b) = b ∧ WellFormed (decode p b) ∧ (decode p b).row.phase = p

/-- R58: for every state with `FAULT = 0` and every byte exactly one row applies, it is the row of
the decoded instruction, and that instruction gives exactly one next state. -/
def Obligations.ExactlyOneRowAppliesToEveryByte : Prop :=
  ∀ (s : State) (b : Byte), s.fault = false →
    (∃! r : OpRow, r ∈ opcodeRows ∧ r.applies (phaseOf s) b = true) ∧
    (decode (phaseOf s) b).row.applies (phaseOf s) b = true ∧
    (decode (phaseOf s) b).row ∈ opcodeRows ∧
    ∃! t : State, exec (decode (phaseOf s) b) s = .next t

/-- R50: `classify`, whole byte for the real-time values, high nibble for the rest, with the line
that applies only where `P_A0_LEN = 2`; and it is 0 for this hardware. -/
def Obligations.ClassifierFollowsTheTable : Prop :=
  Config.pA0Len = .zero ∧
  ∀ (p : A0Len) (b : Byte),
    (b = 0xF8 ∨ b = 0xFE → classify p b = .systemRealtime) ∧
    (b &&& 0xF0 ∈ [0x80#8, 0x90#8, 0xB0#8, 0xE0#8] → classify p b = .channelVoice2) ∧
    (b &&& 0xF0 ∈ [0xC0#8, 0xD0#8] → classify p b = .channelVoice1) ∧
    (b &&& 0xF0 = 0xA0 → classify p b = if p = .two then .channelVoice2 else .unclassified) ∧
    (b ∉ [0xF8#8, 0xFE#8] →
      b &&& 0xF0 ∉ [0x80#8, 0x90#8, 0xA0#8, 0xB0#8, 0xC0#8, 0xD0#8, 0xE0#8] →
      classify p b = .unclassified)

/-- R51 with R49: `dlen` is `dbytes` of the class; by high nibble it is 2 for 8, 9, B, E, 1 for
C, D and 0 for all others, it depends on the high nibble only, and it is never 3. -/
def Obligations.DataByteCountByHighNibble : Prop :=
  dbytes .channelVoice2 = 2 ∧ dbytes .channelVoice1 = 1 ∧ dbytes .systemRealtime = 0 ∧
  dbytes .unclassified = 0 ∧
  ∀ hi lo : BitVec 4,
    dlen .zero (hi ++ lo) = dbytes (classify .zero (hi ++ lo)) ∧
    dlen .zero (hi ++ lo) =
      (if hi ∈ [0x8#4, 0x9#4, 0xB#4, 0xE#4] then 2 else if hi ∈ [0xC#4, 0xD#4] then 1 else 0)

/-- R20: the phase from `LEN` and `REM`; on states with the invariants D1 is (1,1) or (2,2), D2 is
(2,1), and the slot of the next data byte is `LEN - REM + 1` (R32); `FAULT` does not enter. -/
def Obligations.PhaseFollowsLenAndRem : Prop :=
  (∀ s : State,
    (phaseOf s = .s ↔ s.rem = 0) ∧
    (phaseOf s = .d1 ↔ s.rem ≠ 0 ∧ s.rem = s.len) ∧
    (phaseOf s = .d2 ↔ s.rem ≠ 0 ∧ s.rem ≠ s.len) ∧
    ∀ f : Bool, phaseOf { s with fault := f } = phaseOf s) ∧
  ∀ s : State, FramerInv s →
    (phaseOf s = .d1 ↔ (s.len = 1 ∧ s.rem = 1) ∨ (s.len = 2 ∧ s.rem = 2)) ∧
    (phaseOf s = .d2 ↔ s.len = 2 ∧ s.rem = 1) ∧
    (phaseOf s ≠ .s → slotIndex (slotOf s) = s.len.toNat - s.rem.toNat + 1)

/-! ### What each row does -/

/-- R75 to R78: accepted in phase S, each byte of the four rows opens a message of two data bytes:
the byte in `STATUS`, both data slots zeroed, `LEN = REM = 2`, `MSG_VALID = 0`, everything else
unchanged, whatever the previous message left. The next two accepted bytes, whatever their values,
complete the message. In phases D1 and D2 the same byte is data. -/
def Obligations.ChannelVoice2RowsOpenATwoByteMessage : Prop :=
  ∀ (chan : BitVec 4) (s : State), AtBoundary s →
    ∀ r ∈ [(Instr.noteOff chan, 0x8#4 ++ chan), (Instr.noteOn chan, 0x9#4 ++ chan),
           (Instr.ctrlChg chan, 0xB#4 ++ chan), (Instr.pitchBend chan, 0xE#4 ++ chan)],
      decode .s r.2 = r.1 ∧ decode .d1 r.2 = .data1 r.2 ∧ decode .d2 r.2 = .data2 r.2 ∧
      classify Config.pA0Len r.2 = .channelVoice2 ∧ dlen Config.pA0Len r.2 = 2 ∧
      exec r.1 s = .next { s with status := r.2, data1 := 0x00, data2 := 0x00, len := 2, rem := 2,
                                  msgValid := false } ∧
      ∀ d e : Byte, acceptAll s [r.2, d, e] = [⟨r.2, d, e, 2⟩]

/-- R80, R81: accepted in phase S, each byte of the two rows opens a message of one data byte; the
next accepted byte, whatever its value, completes it, with `DATA2` the filler. -/
def Obligations.ChannelVoice1RowsOpenAOneByteMessage : Prop :=
  ∀ (chan : BitVec 4) (s : State), AtBoundary s →
    ∀ r ∈ [(Instr.progChg chan, 0xC#4 ++ chan), (Instr.chanPres chan, 0xD#4 ++ chan)],
      decode .s r.2 = r.1 ∧ decode .d1 r.2 = .data1 r.2 ∧ decode .d2 r.2 = .data2 r.2 ∧
      classify Config.pA0Len r.2 = .channelVoice1 ∧ dlen Config.pA0Len r.2 = 1 ∧
      exec r.1 s = .next { s with status := r.2, data1 := 0x00, data2 := 0x00, len := 1, rem := 1,
                                  msgValid := false } ∧
      ∀ d : Byte, acceptAll s [r.2, d] = [⟨r.2, d, 0x00, 1⟩]

/-- R82, R83: 0xF8 and 0xFE accepted in phase S are complete messages by themselves, each cycle its
own message; in phases D1 and D2 they are data. -/
def Obligations.SystemRealtimeRowsAreWholeMessages : Prop :=
  ∀ s : State, AtBoundary s →
    ∀ r ∈ [(Instr.clock, 0xF8#8), (Instr.actSense, 0xFE#8)],
      decode .s r.2 = r.1 ∧ decode .d1 r.2 = .data1 r.2 ∧ decode .d2 r.2 = .data2 r.2 ∧
      classify Config.pA0Len r.2 = .systemRealtime ∧ dlen Config.pA0Len r.2 = 0 ∧
      exec r.1 s = .next { s with status := r.2, data1 := 0x00, data2 := 0x00, len := 0, rem := 0,
                                  msgValid := true } ∧
      acceptAll s [r.2] = [⟨r.2, 0x00, 0x00, 0⟩] ∧
      acceptAll s [r.2, r.2] = [⟨r.2, 0x00, 0x00, 0⟩, ⟨r.2, 0x00, 0x00, 0⟩]

/-- R84, R86 to R90: every unclassified byte accepted in phase S is forwarded as a message by
itself and has no other effect, a byte below 0x80 and 0xFF included. -/
def Obligations.UnclassifiedRowsArePassedThrough : Prop :=
  ∀ (b : Byte) (s : State), AtBoundary s →
    ∀ i : Instr,
      (i = .unclLow b ∧ b &&& 0x80 = 0x00) ∨ (i = .unclF0F7 b ∧ b &&& 0xF8 = 0xF0) ∨
      (i = .unclF9 ∧ b = 0xF9) ∨ (i = .unclFAFB b ∧ b &&& 0xFE = 0xFA) ∨
      (i = .unclFCFD b ∧ b &&& 0xFE = 0xFC) ∨ (i = .unclFF ∧ b = 0xFF) →
      decode .s b = i ∧ classify Config.pA0Len b = .unclassified ∧ dlen Config.pA0Len b = 0 ∧
      exec i s = .next { s with status := b, data1 := 0x00, data2 := 0x00, len := 0, rem := 0,
                                msgValid := true } ∧
      acceptAll s [b] = [⟨b, 0x00, 0x00, 0⟩]

/-- R85: on this hardware (`P_A0_LEN = 0`) a byte 0xA0 to 0xAF accepted in phase S is a message by
itself, and two bytes below 0x80 after it are two more messages; with `P_A0_LEN = 2` it opens a
message of two data bytes instead, and any two bytes accepted after it complete that one message. -/
def Obligations.PolyAtRowFollowsItsParameter : Prop :=
  ∀ (chan : BitVec 4) (s : State), AtBoundary s →
    let b : Byte := 0xA#4 ++ chan
    decode .s b = .polyAt chan ∧ classify Config.pA0Len b = .unclassified ∧
    dlen Config.pA0Len b = 0 ∧
    exec (.polyAt chan) s = .next { s with status := b, data1 := 0x00, data2 := 0x00, len := 0,
                                           rem := 0, msgValid := true } ∧
    (∀ d e : Byte, d &&& 0x80 = 0x00 → e &&& 0x80 = 0x00 →
      acceptAll s [b, d, e] = [⟨b, 0x00, 0x00, 0⟩, ⟨d, 0x00, 0x00, 0⟩, ⟨e, 0x00, 0x00, 0⟩]) ∧
    classify .two b = .channelVoice2 ∧
    dlen .two b = 2 ∧
    execWith .two (.polyAt chan) s = .next { s with status := b, data1 := 0x00, data2 := 0x00,
                                                    len := 2, rem := 2, msgValid := false } ∧
    ∀ d e : Byte, acceptAllWith .two s [b, d, e] = [⟨b, d, e, 2⟩]

/-- R92: a byte accepted in phase D1, whatever its value, goes whole to `DATA1`; the count goes down
and `MSG_VALID` is 1 exactly if the old `REM` was 1; nothing else changes. On states with the
invariants a message of length 1 is then complete and one of length 2 waits for `DATA2`. Idle cycles
before it change nothing of the open message, and a byte presented with `rx_err` is not accepted. -/
def Obligations.Data1StoresTheFirstDataByte : Prop :=
  ∀ (d : Byte) (s : State), s.fault = false → s.rem ≠ 0 → s.rem = s.len →
    let t : State := { s with data1 := d, rem := s.rem - 1, msgValid := decide (s.rem = 1) }
    decode (phaseOf s) d = .data1 d ∧ exec (.data1 d) s = .next t ∧
    (FramerInv s → s.len = 1 → delivered t = some ⟨s.status, d, 0x00, 1⟩ ∧ phaseOf t = .s) ∧
    (FramerInv s → s.len = 2 → delivered t = none ∧ phaseOf t = .d2) ∧
    (∀ x : Byte, cycle (In.idle x) s = .next { s with msgValid := false }) ∧
    cycle (In.errByte d) s = .next { s with fault := true, msgValid := false }

/-- R93: a byte accepted in phase D2, whatever its value, goes whole to `DATA2`; the count goes down
and `MSG_VALID` is 1 exactly if the old `REM` was 1; nothing else changes. On states with the
invariants the message of length 2 is then complete. -/
def Obligations.Data2StoresTheSecondDataByte : Prop :=
  ∀ (d : Byte) (s : State), s.fault = false → s.rem ≠ 0 → s.rem ≠ s.len →
    let t : State := { s with data2 := d, rem := s.rem - 1, msgValid := decide (s.rem = 1) }
    decode (phaseOf s) d = .data2 d ∧ exec (.data2 d) s = .next t ∧
    (FramerInv s → t.rem = 0 ∧ delivered t = some ⟨s.status, s.data1, d, 2⟩ ∧ phaseOf t = .s) ∧
    (∀ x : Byte, cycle (In.idle x) s = .next { s with msgValid := false }) ∧
    cycle (In.errByte d) s = .next { s with fault := true, msgValid := false }

/-- R64, the frame of all 15 status rows, at a message boundary, where the spec gives them their
effect: slot 0 holds the byte, slots 1 and 2 the filler, `FAULT` and the environment's fields are
unchanged, and nothing of the old `STATUS`, `DATA1`, `DATA2`, `LEN`, `MSG_VALID` is left. -/
def Obligations.StatusRowsWriteAllThreeSlotsAndKeepFault : Prop :=
  ∀ (i : Instr) (s t : State), WellFormed i → i.row.phase = .s → AtBoundary s →
    exec i s = .next t →
    memRead .status t = encode i ∧ memRead .data1 t = 0x00 ∧ memRead .data2 t = 0x00 ∧
    t.fault = s.fault ∧ t.inputs = s.inputs ∧ t.drawn = s.drawn ∧
    ∀ (st d e : Byte) (l : Count) (v : Bool),
      exec i { s with status := st, data1 := d, data2 := e, len := l, msgValid := v } = .next t

/-- R65, the frame of the two data rows, in their phase and with `FAULT = 0`, where the spec gives
them their effect: the slot `slotOf` selects (R32) holds the byte, every other slot, `LEN`, `FAULT`
and the environment's fields are unchanged. -/
def Obligations.DataRowsWriteOneSlotAndKeepTheRest : Prop :=
  ∀ (i : Instr) (s t : State), s.fault = false → i.row.phase = phaseOf s → phaseOf s ≠ .s →
    exec i s = .next t →
    memRead (slotOf s) t = encode i ∧
    (∀ a : Slot, a ≠ slotOf s → memRead a t = memRead a s) ∧
    t.rem = s.rem - 1 ∧ t.msgValid = decide (s.rem = 1) ∧
    t.len = s.len ∧ t.fault = s.fault ∧ t.inputs = s.inputs ∧ t.drawn = s.drawn

/-- R54, R48: while `FAULT = 0` no byte presented without `rst` and `rx_err` is dropped, altered or
faults: after the step the slot the phase selects holds it whole, in every phase. -/
def Obligations.EveryAcceptedByteIsStoredWhole : Prop :=
  ∀ (s : State) (b : Byte) (rest : List In), s.fault = false → s.inputs = In.byte b :: rest →
    ∃ t : State, step s = .next t ∧ memRead (slotOf s) t = b ∧ t.fault = false ∧ t.inputs = rest

/-! ### The transport fault -/

/-- R103: fault entry sets `FAULT`, clears `MSG_VALID` and holds the rest, in any phase; a byte
presented in the same cycle is not accepted; the output `fault` is 1 from the next cycle on; and no
message is delivered from then on until a reset. -/
def Obligations.FaultEntryHoldsEverythingElse : Prop :=
  ∀ (s : State) (i : In) (is : List In), s.fault = false → s.inputs = i :: is →
    i.rst = false → i.rxErr = true → (∀ j ∈ is, j.rst = false) →
    step s = .next { s with fault := true, msgValid := false, inputs := is } ∧
    (∀ (k : Nat) (t : State), k ≤ is.length →
      Host.Core.run Sys2Proof.core (k + 1) s = .next t → (out t).fault = true) ∧
    deliveries (is.length + 1) s = List.replicate (is.length + 1) none

/-- R101: the fault is raised by a cycle with `rst = 0`, `FAULT = 0`, `rx_err = 1`, and by nothing
else. -/
def Obligations.FaultIsRaisedByRxErrAlone : Prop :=
  ∀ s t : State, step s = .next t → s.fault = false →
    (t.fault = true ↔ (nextInput s).rst = false ∧ (nextInput s).rxErr = true)

/-- R104: from a faulted state, any inputs without `rst`, bytes and errors included, change nothing
and deliver nothing, however many. -/
def Obligations.FaultedFramerHoldsAndDropsBytes : Prop :=
  ∀ (s : State) (is : List In), s.fault = true → (∀ i ∈ is, i.rst = false) →
    Host.Core.run Sys2Proof.core is.length (place is s) =
      .next { s with msgValid := if is = [] then s.msgValid else false } ∧
    deliveries is.length (place is s) = List.replicate is.length none

/-- R105: nothing but `rst = 1` clears `FAULT`, and reset discards everything: all seven registers
are at their reset values. -/
def Obligations.FaultIsLeftByResetAlone : Prop :=
  ∀ s t : State, step s = .next t → s.fault = true →
    (t.fault = false ↔ (nextInput s).rst = true) ∧
    (t.fault = false →
      t.status = 0x00 ∧ t.data1 = 0x00 ∧ t.data2 = 0x00 ∧ t.len = 0 ∧ t.rem = 0 ∧
      t.msgValid = false)

/-- R106: a message completed in cycle `t` is delivered in cycle `t+1` although `rx_err = 1` then,
and `FAULT` shows from cycle `t+2`; with `rx_err = 1` in cycle `t` itself it is not delivered. -/
def Obligations.FaultIsPreciseWithRespectToMessages : Prop :=
  (∀ (s t : State) (b : Byte) (i : In) (rest : List In),
    s.inputs = In.byte b :: i :: rest → i.rst = false → i.rxErr = true → s.fault = false →
    step s = .next t → t.msgValid = true →
    delivered t = some ⟨t.status, t.data1, t.data2, t.len⟩ ∧ t.fault = false ∧
    step t = .next { t with fault := true, msgValid := false, inputs := rest }) ∧
  ∀ (s : State) (b : Byte) (rest : List In),
    s.inputs = In.errByte b :: rest → s.fault = false →
    step s = .next { s with fault := true, msgValid := false, inputs := rest }

/-! ### Phases and messages -/

/-- R67: the phase transitions and the message each completes, on states with the invariants. -/
def Obligations.PhaseTransitionsFollowTheTable : Prop :=
  (∀ (s : State) (b : Byte), AtBoundary s → ∃ t : State, accept s b = (t, delivered t) ∧
    (dlen Config.pA0Len b = 0 → phaseOf t = .s ∧ delivered t = some ⟨b, 0x00, 0x00, 0⟩) ∧
    (dlen Config.pA0Len b = 1 →
      phaseOf t = .d1 ∧ t.len = 1 ∧ t.rem = 1 ∧ delivered t = none) ∧
    (dlen Config.pA0Len b = 2 →
      phaseOf t = .d1 ∧ t.len = 2 ∧ t.rem = 2 ∧ delivered t = none)) ∧
  (∀ (s : State) (d : Byte), FramerInv s → s.fault = false → phaseOf s ≠ .s →
    ∃ t : State, accept s d = (t, delivered t) ∧
    (s.len = 1 ∧ s.rem = 1 →
      phaseOf t = .s ∧ t.len = 1 ∧ t.rem = 0 ∧ delivered t = some ⟨s.status, d, 0x00, 1⟩) ∧
    (s.len = 2 ∧ s.rem = 2 → phaseOf t = .d2 ∧ t.len = 2 ∧ t.rem = 1 ∧ delivered t = none) ∧
    (s.len = 2 ∧ s.rem = 1 →
      phaseOf t = .s ∧ t.len = 2 ∧ t.rem = 0 ∧ delivered t = some ⟨s.status, s.data1, d, 2⟩)) ∧
  ∀ s t : State, step s = .next t →
    ((nextInput s).rst = true → phaseOf t = .s) ∧
    ((nextInput s).rst = false → accepts (nextInput s) s = false → phaseOf t = phaseOf s)

/-- R67, last sentence: an open message is completed by exactly `REM` accepted bytes, whatever they
are, and by no fewer. -/
def Obligations.OpenMessageClosesAfterExactlyRemBytes : Prop :=
  ∀ (s : State) (bs : List Byte), FramerInv s → s.fault = false → s.rem ≠ 0 →
    bs.length ≤ s.rem.toNat →
    (acceptAll s bs).length = if bs.length = s.rem.toNat then 1 else 0

/-- R46 and R34: in a cycle with `msg_valid = 1` of a state with the invariants the four message
ports show one whole message: `length` is `dlen` of the status byte, unused slots hold the filler,
and no message is open. -/
def Obligations.DeliveredMessageIsWholeAndZeroFilled : Prop :=
  ∀ (s : State) (m : Message), FramerInv s → delivered s = some m →
    (out s).msgValid = true ∧ (out s).msgStatus = m.status ∧ (out s).msgData1 = m.data1 ∧
    (out s).msgData2 = m.data2 ∧ (out s).msgLen = m.length ∧ (out s).rem = 0 ∧
    (out s).fault = false ∧
    m.length = dlen Config.pA0Len m.status ∧ m.length ≠ 3 ∧
    (m.length = 0 → m.data1 = 0x00) ∧ (m.length ≠ 2 → m.data2 = 0x00)

/-- R129: bytes that are whole messages, accepted in consecutive cycles, are one delivery each, with
`MSG_VALID` 1 throughout; equal bytes too. -/
def Obligations.ConsecutiveWholeMessagesAreDeliveredOneByOne : Prop :=
  ∀ (s : State) (bs : List Byte), AtBoundary s → (∀ b ∈ bs, dlen Config.pA0Len b = 0) →
    deliveries bs.length (place (bs.map In.byte) s) =
      bs.map fun b => some ⟨b, 0x00, 0x00, 0⟩

/-- R24 (d): no rule reads what an earlier message left in the buffer. Two framers at a message
boundary, with whatever residue, facing the same environment, deliver the same for ever. -/
def Obligations.ResidueOfEarlierMessagesIsNeverRead : Prop :=
  ∀ (s s' : State) (k : Nat), AtBoundary s → AtBoundary s' →
    s.inputs = s'.inputs → s.drawn = s'.drawn → deliveries k s = deliveries k s'

/-! ### Streams -/

/-- R68: `frames` satisfies its defining equations, for both values of the parameter, is
prefix-monotone, and leaves a trailing incomplete message undelivered. -/
def Obligations.FramesEquationsAndPrefixMonotone : Prop :=
  ∀ p : A0Len,
    frames p [] = [] ∧
    (∀ (b : Byte) (r : List Byte),
      frames p (b :: r) =
        if r.length < (dlen p b).toNat then []
        else
          { status := b
            data1 := if (dlen p b).toNat = 0 then 0x00 else r.getD 0 0x00
            data2 := if (dlen p b).toNat = 2 then r.getD 1 0x00 else 0x00
            length := dlen p b } :: frames p (r.drop (dlen p b).toNat)) ∧
    (∀ r r' : List Byte, frames p r <+: frames p (r ++ r')) ∧
    ∀ (b : Byte) (r : List Byte), r.length < (dlen p b).toNat →
      outstanding p (b :: r) = (dlen p b).toNat - r.length

/-- R69, from any message boundary and so from reset: over any inputs without `rst` and `rx_err`,
with idle cycles anywhere, (1) every presented byte is accepted, (2) each cycle delivers exactly what
`frames` of the bytes so far has gained, (3) all deliveries in order are `frames` of the bytes, and
(4) `REM` is what the trailing incomplete message still lacks. -/
def Obligations.StepsDeliverTheFramesOfTheBytes : Prop :=
  ∀ (s : State) (is : List In), AtBoundary s → (∀ i ∈ is, i.rst = false ∧ i.rxErr = false) →
    (∀ (pre post : List In) (i : In), is = pre ++ i :: post →
      (∃ t : State, Host.Core.run Sys2Proof.core pre.length (place is s) = .next t ∧
        nextInput t = i ∧ accepts i t = i.rxValid) ∧
      ∃ o : Option Message, (deliveries is.length (place is s))[pre.length]? = some o ∧
        frames Config.pA0Len (presented (pre ++ [i])) =
          frames Config.pA0Len (presented pre) ++ o.toList) ∧
    (deliveries is.length (place is s)).filterMap id = frames Config.pA0Len (presented is) ∧
    ∃ t : State, Host.Core.run Sys2Proof.core is.length (place is s) = .next t ∧
      t.fault = false ∧ t.rem.toNat = outstanding Config.pA0Len (presented is)

/-- R70: folding `accept` over a byte list and collecting the messages gives `frames` of the list,
from reset and from any other message boundary. -/
def Obligations.FoldingAcceptGivesFrames : Prop :=
  ∀ (s : State) (bs : List Byte), AtBoundary s → acceptAll s bs = frames Config.pA0Len bs

/-! ### The output ports, and the parameter as an argument -/

/-- R12: in every state every output port is its register and nothing else, `rem` and `fault`
included; the message ports carry a message exactly when `msg_valid = 1`. -/
def Obligations.OutputPortsAreTheRegisters : Prop :=
  ∀ s : State,
    out s = { msgValid := s.msgValid, msgStatus := s.status, msgData1 := s.data1,
              msgData2 := s.data2, msgLen := s.len, rem := s.rem, fault := s.fault } ∧
    delivered s =
      if s.msgValid = true then some ⟨s.status, s.data1, s.data2, s.len⟩ else none

/-- R60 with R110 and the parameter as an argument: for either value of `P_A0_LEN`, every state and
every input, the step has one result, and its seven registers are those of the first branch whose
condition holds, with `dlen` of that value; the machine of this hardware is the case
`Config.pA0Len`. -/
def Obligations.StepWithEitherParameterIsTheFirstBranch : Prop :=
  (∀ (p : A0Len) (s : State),
    let i := nextInput s
    ∃ t : State, stepWith p s = .next t ∧
      registersOf t = registersOf
        (if i.rst = true then State.reset
        else if s.fault = true then { s with msgValid := false }
        else if i.rxErr = true then { s with fault := true, msgValid := false }
        else if i.rxValid = false then { s with msgValid := false }
        else if s.rem = 0 then
          let n := dlen p i.rxData
          { s with status := i.rxData, data1 := 0x00, data2 := 0x00, len := n, rem := n,
                   msgValid := decide (n = 0) }
        else
          let s₁ := if s.rem = s.len then { s with data1 := i.rxData }
                    else { s with data2 := i.rxData }
          { s₁ with rem := s.rem - 1, msgValid := decide (s.rem = 1) })) ∧
  (∀ s : State, stepWith Config.pA0Len s = step s) ∧
  ∀ (i : Instr) (s : State), execWith Config.pA0Len i s = exec i s

/-- R64: for either value of `P_A0_LEN`, each of the 15 status rows, at a message boundary, whatever
the buffer and `MSG_VALID` hold, is the status-byte step on its byte, and completes. -/
def Obligations.StatusRowsAreTheStatusByteStep : Prop :=
  ∀ (p : A0Len) (i : Instr) (s : State), WellFormed i → i.row.phase = .s → AtBoundary s →
    execWith p i s =
      .next { s with status := encode i, data1 := 0x00, data2 := 0x00,
                     len := dlen p (encode i), rem := dlen p (encode i),
                     msgValid := decide (dlen p (encode i) = 0) }

/-- R21 with the parameter as an argument: for either value of `P_A0_LEN` every step keeps the six
invariants, and they hold in the reset state. -/
def Obligations.InvariantKeptByEveryStepWithEitherParameter : Prop :=
  ∀ p : A0Len, FramerInvWith p State.reset ∧
    ∀ s t : State, FramerInvWith p s → stepWith p s = .next t → FramerInvWith p t

/-- R70 with the parameter as an argument: for either value of `P_A0_LEN`, folding `accept` over a
byte list from a message boundary gives `frames` of the list. -/
def Obligations.FoldingAcceptGivesFramesWithEitherParameter : Prop :=
  ∀ (p : A0Len) (s : State) (bs : List Byte), AtBoundary s → acceptAllWith p s bs = frames p bs
end

