-- ==== Sys2Proof/Laws/State.lean ====
section
/-! SUPPORT. One lemma per field per state update of the model, so that no proof unfolds a record
update. -/

namespace Sys2Proof.Machine

/-! ### The environment's side -/

@[simp] theorem popInput_status (s : State) : (popInput s).status = s.status := by
  unfold popInput; split <;> rfl

@[simp] theorem popInput_data1 (s : State) : (popInput s).data1 = s.data1 := by
  unfold popInput; split <;> rfl

@[simp] theorem popInput_data2 (s : State) : (popInput s).data2 = s.data2 := by
  unfold popInput; split <;> rfl

@[simp] theorem popInput_len (s : State) : (popInput s).len = s.len := by
  unfold popInput; split <;> rfl

@[simp] theorem popInput_rem (s : State) : (popInput s).rem = s.rem := by
  unfold popInput; split <;> rfl

@[simp] theorem popInput_msgValid (s : State) : (popInput s).msgValid = s.msgValid := by
  unfold popInput; split <;> rfl

@[simp] theorem popInput_fault (s : State) : (popInput s).fault = s.fault := by
  unfold popInput; split <;> rfl

theorem nextInput_cons (s : State) (i : In) (r : List In) (h : s.inputs = i :: r) :
    nextInput s = i := by
  simp [nextInput, h]

theorem popInput_cons (s : State) (i : In) (r : List In) (h : s.inputs = i :: r) :
    popInput s = { s with inputs := r } := by
  simp [popInput, h]

@[simp] theorem place_status (is : List In) (s : State) : (place is s).status = s.status := rfl

@[simp] theorem place_data1 (is : List In) (s : State) : (place is s).data1 = s.data1 := rfl

@[simp] theorem place_data2 (is : List In) (s : State) : (place is s).data2 = s.data2 := rfl

@[simp] theorem place_len (is : List In) (s : State) : (place is s).len = s.len := rfl

@[simp] theorem place_rem (is : List In) (s : State) : (place is s).rem = s.rem := rfl

@[simp] theorem place_msgValid (is : List In) (s : State) : (place is s).msgValid = s.msgValid := rfl

@[simp] theorem place_fault (is : List In) (s : State) : (place is s).fault = s.fault := rfl

@[simp] theorem place_drawn (is : List In) (s : State) : (place is s).drawn = s.drawn := rfl

@[simp] theorem place_inputs (is : List In) (s : State) : (place is s).inputs = is ++ s.inputs := rfl

@[simp] theorem registersOf_status (s : State) : (registersOf s).status = s.status := rfl

@[simp] theorem registersOf_data1 (s : State) : (registersOf s).data1 = s.data1 := rfl

@[simp] theorem registersOf_data2 (s : State) : (registersOf s).data2 = s.data2 := rfl

@[simp] theorem registersOf_len (s : State) : (registersOf s).len = s.len := rfl

@[simp] theorem registersOf_rem (s : State) : (registersOf s).rem = s.rem := rfl

@[simp] theorem registersOf_msgValid (s : State) : (registersOf s).msgValid = s.msgValid := rfl

@[simp] theorem registersOf_fault (s : State) : (registersOf s).fault = s.fault := rfl

/-- The model's own fields do not enter. -/
@[simp] theorem registersOf_popInput (s : State) : registersOf (popInput s) = registersOf s := by
  unfold popInput
  split <;> rfl

/-! ### Fault entry, the faulted cycle, the idle cycle -/

@[simp] theorem enterFault_status (c : Fault) (s : State) : (enterFault c s).status = s.status := by cases c; rfl

@[simp] theorem enterFault_data1 (c : Fault) (s : State) : (enterFault c s).data1 = s.data1 := by cases c; rfl

@[simp] theorem enterFault_data2 (c : Fault) (s : State) : (enterFault c s).data2 = s.data2 := by cases c; rfl

@[simp] theorem enterFault_len (c : Fault) (s : State) : (enterFault c s).len = s.len := by cases c; rfl

@[simp] theorem enterFault_rem (c : Fault) (s : State) : (enterFault c s).rem = s.rem := by cases c; rfl

@[simp] theorem enterFault_msgValid (c : Fault) (s : State) : (enterFault c s).msgValid = false := by cases c; rfl

@[simp] theorem enterFault_fault (c : Fault) (s : State) : (enterFault c s).fault = true := by cases c; rfl

@[simp] theorem enterFault_inputs (c : Fault) (s : State) : (enterFault c s).inputs = s.inputs := by cases c; rfl

@[simp] theorem enterFault_drawn (c : Fault) (s : State) : (enterFault c s).drawn = s.drawn := by cases c; rfl

@[simp] theorem holdFaulted_status (s : State) : (holdFaulted s).status = s.status := rfl

@[simp] theorem holdFaulted_data1 (s : State) : (holdFaulted s).data1 = s.data1 := rfl

@[simp] theorem holdFaulted_data2 (s : State) : (holdFaulted s).data2 = s.data2 := rfl

@[simp] theorem holdFaulted_len (s : State) : (holdFaulted s).len = s.len := rfl

@[simp] theorem holdFaulted_rem (s : State) : (holdFaulted s).rem = s.rem := rfl

@[simp] theorem holdFaulted_msgValid (s : State) : (holdFaulted s).msgValid = false := rfl

@[simp] theorem holdFaulted_fault (s : State) : (holdFaulted s).fault = s.fault := rfl

@[simp] theorem holdFaulted_inputs (s : State) : (holdFaulted s).inputs = s.inputs := rfl

@[simp] theorem holdFaulted_drawn (s : State) : (holdFaulted s).drawn = s.drawn := rfl

@[simp] theorem idleCycle_status (s : State) : (idleCycle s).status = s.status := rfl

@[simp] theorem idleCycle_data1 (s : State) : (idleCycle s).data1 = s.data1 := rfl

@[simp] theorem idleCycle_data2 (s : State) : (idleCycle s).data2 = s.data2 := rfl

@[simp] theorem idleCycle_len (s : State) : (idleCycle s).len = s.len := rfl

@[simp] theorem idleCycle_rem (s : State) : (idleCycle s).rem = s.rem := rfl

@[simp] theorem idleCycle_msgValid (s : State) : (idleCycle s).msgValid = false := rfl

@[simp] theorem idleCycle_fault (s : State) : (idleCycle s).fault = s.fault := rfl

@[simp] theorem idleCycle_inputs (s : State) : (idleCycle s).inputs = s.inputs := rfl

@[simp] theorem idleCycle_drawn (s : State) : (idleCycle s).drawn = s.drawn := rfl

/-! ### Reset -/

@[simp] theorem resetRegisters_status (s : State) : (resetRegisters s).status = 0x00 := rfl

@[simp] theorem resetRegisters_data1 (s : State) : (resetRegisters s).data1 = 0x00 := rfl

@[simp] theorem resetRegisters_data2 (s : State) : (resetRegisters s).data2 = 0x00 := rfl

@[simp] theorem resetRegisters_len (s : State) : (resetRegisters s).len = 0 := rfl

@[simp] theorem resetRegisters_rem (s : State) : (resetRegisters s).rem = 0 := rfl

@[simp] theorem resetRegisters_msgValid (s : State) : (resetRegisters s).msgValid = false := rfl

@[simp] theorem resetRegisters_fault (s : State) : (resetRegisters s).fault = false := rfl

@[simp] theorem resetRegisters_inputs (s : State) : (resetRegisters s).inputs = s.inputs := rfl

@[simp] theorem resetRegisters_drawn (s : State) : (resetRegisters s).drawn = s.drawn := rfl

/-! ### The status-byte step -/

@[simp] theorem statusByteStep_status (p : A0Len) (b : Byte) (s : State) :
    (statusByteStep p b s).status = b := rfl

@[simp] theorem statusByteStep_data1 (p : A0Len) (b : Byte) (s : State) :
    (statusByteStep p b s).data1 = 0x00 := rfl

@[simp] theorem statusByteStep_data2 (p : A0Len) (b : Byte) (s : State) :
    (statusByteStep p b s).data2 = 0x00 := rfl

@[simp] theorem statusByteStep_len (p : A0Len) (b : Byte) (s : State) :
    (statusByteStep p b s).len = dlen p b := rfl

@[simp] theorem statusByteStep_rem (p : A0Len) (b : Byte) (s : State) :
    (statusByteStep p b s).rem = dlen p b := rfl

@[simp] theorem statusByteStep_msgValid (p : A0Len) (b : Byte) (s : State) :
    (statusByteStep p b s).msgValid = validAfterStatus (dlen p b) := rfl

@[simp] theorem statusByteStep_fault (p : A0Len) (b : Byte) (s : State) :
    (statusByteStep p b s).fault = s.fault := rfl

@[simp] theorem statusByteStep_inputs (p : A0Len) (b : Byte) (s : State) :
    (statusByteStep p b s).inputs = s.inputs := rfl

@[simp] theorem statusByteStep_drawn (p : A0Len) (b : Byte) (s : State) :
    (statusByteStep p b s).drawn = s.drawn := rfl

/-! ### Slots and the data-byte step -/

@[simp] theorem memWrite_len (a : Slot) (d : Byte) (s : State) : (memWrite a d s).len = s.len := by
  cases a <;> rfl

@[simp] theorem memWrite_rem (a : Slot) (d : Byte) (s : State) : (memWrite a d s).rem = s.rem := by
  cases a <;> rfl

@[simp] theorem memWrite_msgValid (a : Slot) (d : Byte) (s : State) : (memWrite a d s).msgValid = s.msgValid := by
  cases a <;> rfl

@[simp] theorem memWrite_fault (a : Slot) (d : Byte) (s : State) : (memWrite a d s).fault = s.fault := by
  cases a <;> rfl

@[simp] theorem memWrite_inputs (a : Slot) (d : Byte) (s : State) : (memWrite a d s).inputs = s.inputs := by
  cases a <;> rfl

@[simp] theorem memWrite_drawn (a : Slot) (d : Byte) (s : State) : (memWrite a d s).drawn = s.drawn := by
  cases a <;> rfl

@[simp] theorem dataByteStep_status (a : Slot) (d : Byte) (s : State) :
    (dataByteStep a d s).status = if a = .status then d else s.status := by
  cases a <;> rfl

@[simp] theorem dataByteStep_data1 (a : Slot) (d : Byte) (s : State) :
    (dataByteStep a d s).data1 = if a = .data1 then d else s.data1 := by
  cases a <;> rfl

@[simp] theorem dataByteStep_data2 (a : Slot) (d : Byte) (s : State) :
    (dataByteStep a d s).data2 = if a = .data2 then d else s.data2 := by
  cases a <;> rfl

@[simp] theorem dataByteStep_len (a : Slot) (d : Byte) (s : State) :
    (dataByteStep a d s).len = s.len := by
  cases a <;> rfl

@[simp] theorem dataByteStep_rem (a : Slot) (d : Byte) (s : State) :
    (dataByteStep a d s).rem = s.rem - 1 := by
  cases a <;> rfl

@[simp] theorem dataByteStep_msgValid (a : Slot) (d : Byte) (s : State) :
    (dataByteStep a d s).msgValid = validAfterData s.rem := by
  cases a <;> rfl

@[simp] theorem dataByteStep_fault (a : Slot) (d : Byte) (s : State) :
    (dataByteStep a d s).fault = s.fault := by
  cases a <;> rfl

@[simp] theorem dataByteStep_inputs (a : Slot) (d : Byte) (s : State) :
    (dataByteStep a d s).inputs = s.inputs := by
  cases a <;> rfl

@[simp] theorem dataByteStep_drawn (a : Slot) (d : Byte) (s : State) :
    (dataByteStep a d s).drawn = s.drawn := by
  cases a <;> rfl

end Sys2Proof.Machine
end

