-- ==== Sys2Proof/Laws/Ops.lean ====
section
/-! SUPPORT. One lemma per shared operation that says all it can do: slots, the classifier, the two
byte steps behind `exec`, the parameter, one cycle, one step, a run of steps. -/

namespace Sys2Proof.Machine

/-! ### Slots -/

@[simp] theorem memRead_memWrite_same (a : Slot) (v : Byte) (s : State) :
    memRead a (memWrite a v s) = v := by
  cases a <;> rfl

@[simp] theorem memRead_memWrite_other (a b : Slot) (v : Byte) (s : State) (h : a ≠ b) :
    memRead a (memWrite b v s) = memRead a s := by
  cases a <;> cases b <;> first | rfl | exact absurd rfl h

/-! ### The message on the outputs -/

theorem delivered_of_valid (s : State) (h : s.msgValid = true) :
    delivered s = some ⟨s.status, s.data1, s.data2, s.len⟩ := by
  simp [delivered, out, h]

theorem delivered_of_not_valid (s : State) (h : s.msgValid = false) : delivered s = none := by
  simp [delivered, out, h]

/-! ### The count of a status byte -/

theorem dlen_lt_three (p : A0Len) (b : Byte) : (dlen p b).toNat < 3 := by
  unfold dlen
  cases classify p b <;> decide

theorem dlen_cases (p : A0Len) (b : Byte) : dlen p b = 0 ∨ dlen p b = 1 ∨ dlen p b = 2 := by
  unfold dlen
  cases classify p b <;> decide

/-- The count of a byte put together from its nibbles, found by evaluating all 256. -/
theorem dlen_formatS (hi lo : BitVec 4) :
    dlen .zero (formatS hi lo) =
      if hi = 0x8 ∨ hi = 0x9 ∨ hi = 0xB ∨ hi = 0xE then 2
      else if hi = 0xC ∨ hi = 0xD then 1 else 0 := by
  revert hi lo
  decide

/-! ### `exec` -/

/-- All 15 status rows are the status-byte step on the byte they encode to (R64). -/
theorem exec_of_statusRow (i : Instr) (s : State) (hp : i.row.phase = .s) :
    exec i s = .next (statusByteStep Config.pA0Len (encode i) s) := by
  cases i <;> first | rfl | cases hp

theorem exec_data1 (d : Byte) (s : State) : exec (.data1 d) s = .next (dataByteStep .data1 d s) :=
  rfl

theorem exec_data2 (d : Byte) (s : State) : exec (.data2 d) s = .next (dataByteStep .data2 d s) :=
  rfl

/-- `exec` answers a next state for every instruction and state. -/
theorem exec_answers_next (i : Instr) (s : State) : ∃ t, exec i s = .next t := by
  cases i <;> exact ⟨_, rfl⟩

/-! ### The parameter -/

/-- Only a byte with high nibble 0xA has a count that the parameter decides (R50). -/
theorem dlen_of_not_A0 (p : A0Len) (b : Byte) (h : highNibble b ≠ 0xA0) :
    dlen p b = dlen Config.pA0Len b := by
  simp only [dlen, classify, h, false_and, if_false]

/-- This hardware is the case `Config.pA0Len`. -/
theorem execWith_pA0Len : execWith Config.pA0Len = exec := by
  funext i s
  cases i <;> rfl

theorem cycleWith_pA0Len : cycleWith Config.pA0Len = cycle := by
  funext i s
  rw [cycleWith, execWith_pA0Len, cycle]

theorem stepWith_pA0Len : stepWith Config.pA0Len = step := by
  funext s
  rw [stepWith, cycleWith_pA0Len, step]

theorem acceptAllWith_pA0Len : acceptAllWith Config.pA0Len = acceptAll := by
  funext s bs
  rw [acceptAllWith, execWith_pA0Len, acceptAll]

/-- With either parameter the byte of a status row other than `POLY_AT` has no high nibble 0xA. -/
theorem highNibble_encode (i : Instr) (hw : WellFormed i) (hp : i.row.phase = .s)
    (hi : i.row ≠ rowPolyAt) : highNibble (encode i) ≠ 0xA0 := by
  cases i with
  | noteOff c | noteOn c | ctrlChg c | pitchBend c | progChg c | chanPres c => revert c; decide
  | clock | actSense | unclF9 | unclFF => decide
  | unclLow b | unclF0F7 b | unclFAFB b | unclFCFD b => revert b; decide
  | polyAt c => exact absurd rfl hi
  | data1 d | data2 d => cases hp

/-- With either parameter all 15 status rows are the status-byte step on the byte they encode to
(R64, R85). -/
theorem execWith_of_statusRow (p : A0Len) (i : Instr) (s : State) (hw : WellFormed i)
    (hp : i.row.phase = .s) : execWith p i s = .next (statusByteStep p (encode i) s) := by
  by_cases hi : i.row = rowPolyAt
  · cases i <;> first | rfl | exact absurd hi (of_decide_eq_false rfl)
  · have hd := dlen_of_not_A0 p _ (highNibble_encode i hw hp hi)
    have he : execWith p i s = exec i s := by cases i <;> first | rfl | exact absurd rfl hi
    rw [he, exec_of_statusRow i s hp, statusByteStep, statusByteStep, hd]

theorem execWith_answers_next (p : A0Len) (i : Instr) (s : State) : ∃ t, execWith p i s = .next t := by
  cases i <;> exact ⟨_, rfl⟩

/-! ### The phase -/

theorem phaseOf_of_rem_zero (s : State) (h : s.rem = 0) : phaseOf s = .s := by simp [phaseOf, h]

theorem phaseOf_of_rem_len (s : State) (h : s.rem ≠ 0) (hl : s.rem = s.len) : phaseOf s = .d1 := by
  simp only [phaseOf, if_neg h, if_pos hl]

theorem phaseOf_of_rem_ne_len (s : State) (h : s.rem ≠ 0) (hl : s.rem ≠ s.len) :
    phaseOf s = .d2 := by
  simp only [phaseOf, if_neg h, if_neg hl]

@[simp] theorem phaseOf_popInput (s : State) : phaseOf (popInput s) = phaseOf s := by simp [phaseOf]

@[simp] theorem phaseOf_place (is : List In) (s : State) : phaseOf (place is s) = phaseOf s := rfl

/-- The decoder in the phase of a message boundary gives a well-formed status row that encodes to
the byte. -/
theorem decodeStatus_row (b : Byte) :
    WellFormed (decodeStatus b) ∧ (decodeStatus b).row.phase = .s ∧ encode (decodeStatus b) = b := by
  revert b
  decide

/-! ### One cycle, with either parameter -/

theorem cycleBy_rst (run : Instr → State → Host.Outcome State Fault Refusal) (i : In) (s : State)
    (h : i.rst = true) : cycleBy run i s = .next (resetRegisters s) := by
  simp [cycleBy, h]

theorem cycleBy_faulted (run : Instr → State → Host.Outcome State Fault Refusal) (i : In) (s : State)
    (h : i.rst = false) (hf : s.fault = true) : cycleBy run i s = .next (holdFaulted s) := by
  simp [cycleBy, h, hf]

theorem cycleBy_err (run : Instr → State → Host.Outcome State Fault Refusal) (i : In) (s : State)
    (h : i.rst = false) (hf : s.fault = false) (he : i.rxErr = true) :
    cycleBy run i s = .next (enterFault .transportError s) := by
  simp [cycleBy, h, hf, he]

theorem cycleBy_idle (run : Instr → State → Host.Outcome State Fault Refusal) (i : In) (s : State)
    (h : i.rst = false) (hf : s.fault = false) (he : i.rxErr = false) (hv : i.rxValid = false) :
    cycleBy run i s = .next (idleCycle s) := by
  simp [cycleBy, h, hf, he, hv]

theorem accepts_iff (i : In) (s : State) :
    accepts i s = true ↔
      i.rst = false ∧ s.fault = false ∧ i.rxErr = false ∧ i.rxValid = true := by
  simp [accepts, and_assoc]

/-- An accepted byte runs the instruction it decodes to (R62). -/
theorem cycleBy_accepted (run : Instr → State → Host.Outcome State Fault Refusal) (i : In)
    (s : State) (ha : accepts i s = true) :
    cycleBy run i s = run (decode (phaseOf s) i.rxData) s := by
  obtain ⟨h1, h2, h3, h4⟩ := (accepts_iff i s).1 ha
  simp [cycleBy, h1, h2, h3, h4]

/-- An accepted byte in phase S is the status-byte step on it (R62, R64). -/
theorem cycleWith_status (p : A0Len) (i : In) (s : State) (ha : accepts i s = true)
    (hr : s.rem = 0) : cycleWith p i s = .next (statusByteStep p i.rxData s) := by
  obtain ⟨hw, hp, he⟩ := decodeStatus_row i.rxData
  have hd : decode (phaseOf s) i.rxData = decodeStatus i.rxData := by
    rw [phaseOf_of_rem_zero s hr, decode]
  rw [cycleWith, cycleBy_accepted _ i s ha, hd, execWith_of_statusRow p _ s hw hp, he]

/-- An accepted byte in phase D1 is the data-byte step on slot 1 (R62, R65). -/
theorem cycleWith_data1 (p : A0Len) (i : In) (s : State) (ha : accepts i s = true) (hr : s.rem ≠ 0)
    (hl : s.rem = s.len) : cycleWith p i s = .next (dataByteStep .data1 i.rxData s) := by
  rw [cycleWith, cycleBy_accepted _ i s ha, phaseOf_of_rem_len s hr hl]
  rfl

/-- An accepted byte in phase D2 is the data-byte step on slot 2 (R62, R65). -/
theorem cycleWith_data2 (p : A0Len) (i : In) (s : State) (ha : accepts i s = true) (hr : s.rem ≠ 0)
    (hl : s.rem ≠ s.len) : cycleWith p i s = .next (dataByteStep .data2 i.rxData s) := by
  rw [cycleWith, cycleBy_accepted _ i s ha, phaseOf_of_rem_ne_len s hr hl]
  rfl

/-- Everything one cycle can do, each branch with its guards (R60, R110). -/
theorem cycleWith_cases (p : A0Len) (i : In) (s t : State) (h : cycleWith p i s = .next t) :
    (i.rst = true ∧ t = resetRegisters s) ∨
    (i.rst = false ∧ s.fault = true ∧ t = holdFaulted s) ∨
    (i.rst = false ∧ s.fault = false ∧ i.rxErr = true ∧ t = enterFault .transportError s) ∨
    (i.rst = false ∧ s.fault = false ∧ i.rxErr = false ∧ i.rxValid = false ∧ t = idleCycle s) ∨
    (accepts i s = true ∧ s.rem = 0 ∧ t = statusByteStep p i.rxData s) ∨
    (accepts i s = true ∧ s.rem ≠ 0 ∧ s.rem = s.len ∧ t = dataByteStep .data1 i.rxData s) ∨
    (accepts i s = true ∧ s.rem ≠ 0 ∧ s.rem ≠ s.len ∧ t = dataByteStep .data2 i.rxData s) := by
  rcases Bool.eq_false_or_eq_true i.rst with h1 | h1
  · rw [cycleWith, cycleBy_rst _ i s h1] at h
    exact .inl ⟨h1, (Host.Outcome.next.inj h).symm⟩
  rcases Bool.eq_false_or_eq_true s.fault with h2 | h2
  · rw [cycleWith, cycleBy_faulted _ i s h1 h2] at h
    exact .inr (.inl ⟨h1, h2, (Host.Outcome.next.inj h).symm⟩)
  rcases Bool.eq_false_or_eq_true i.rxErr with h3 | h3
  · rw [cycleWith, cycleBy_err _ i s h1 h2 h3] at h
    exact .inr (.inr (.inl ⟨h1, h2, h3, (Host.Outcome.next.inj h).symm⟩))
  rcases Bool.eq_false_or_eq_true i.rxValid with h4 | h4
  · have ha := (accepts_iff i s).2 ⟨h1, h2, h3, h4⟩
    by_cases hr : s.rem = 0
    · rw [cycleWith_status p i s ha hr] at h
      exact .inr (.inr (.inr (.inr (.inl ⟨ha, hr, (Host.Outcome.next.inj h).symm⟩))))
    by_cases hl : s.rem = s.len
    · rw [cycleWith_data1 p i s ha hr hl] at h
      exact .inr (.inr (.inr (.inr (.inr (.inl ⟨ha, hr, hl, (Host.Outcome.next.inj h).symm⟩)))))
    · rw [cycleWith_data2 p i s ha hr hl] at h
      exact .inr (.inr (.inr (.inr (.inr (.inr ⟨ha, hr, hl, (Host.Outcome.next.inj h).symm⟩)))))
  · rw [cycleWith, cycleBy_idle _ i s h1 h2 h3 h4] at h
    exact .inr (.inr (.inr (.inl ⟨h1, h2, h3, h4, (Host.Outcome.next.inj h).symm⟩)))

/-- A cycle answers a next state, whatever the inputs and the state. -/
theorem cycleWith_answers_next (p : A0Len) (i : In) (s : State) : ∃ t, cycleWith p i s = .next t := by
  unfold cycleWith cycleBy
  repeat' split
  all_goals first | exact ⟨_, rfl⟩ | exact execWith_answers_next _ _ _

/-! ### One cycle of this hardware -/

theorem cycle_rst (i : In) (s : State) (h : i.rst = true) :
    cycle i s = .next (resetRegisters s) := cycleBy_rst exec i s h

theorem cycle_faulted (i : In) (s : State) (h : i.rst = false) (hf : s.fault = true) :
    cycle i s = .next (holdFaulted s) := cycleBy_faulted exec i s h hf

theorem cycle_err (i : In) (s : State) (h : i.rst = false) (hf : s.fault = false)
    (he : i.rxErr = true) : cycle i s = .next (enterFault .transportError s) :=
  cycleBy_err exec i s h hf he

theorem cycle_idle (i : In) (s : State) (h : i.rst = false) (hf : s.fault = false)
    (he : i.rxErr = false) (hv : i.rxValid = false) : cycle i s = .next (idleCycle s) :=
  cycleBy_idle exec i s h hf he hv

theorem cycle_accepted (i : In) (s : State) (ha : accepts i s = true) :
    cycle i s = exec (decode (phaseOf s) i.rxData) s := cycleBy_accepted exec i s ha

theorem cycle_status (i : In) (s : State) (ha : accepts i s = true) (hr : s.rem = 0) :
    cycle i s = .next (statusByteStep Config.pA0Len i.rxData s) :=
  cycleWith_pA0Len ▸ cycleWith_status Config.pA0Len i s ha hr

theorem cycle_data1 (i : In) (s : State) (ha : accepts i s = true) (hr : s.rem ≠ 0)
    (hl : s.rem = s.len) : cycle i s = .next (dataByteStep .data1 i.rxData s) :=
  cycleWith_pA0Len ▸ cycleWith_data1 Config.pA0Len i s ha hr hl

theorem cycle_data2 (i : In) (s : State) (ha : accepts i s = true) (hr : s.rem ≠ 0)
    (hl : s.rem ≠ s.len) : cycle i s = .next (dataByteStep .data2 i.rxData s) :=
  cycleWith_pA0Len ▸ cycleWith_data2 Config.pA0Len i s ha hr hl

/-- `cycleWith_cases` for this hardware. -/
theorem cycle_cases (i : In) (s t : State) (h : cycle i s = .next t) :
    (i.rst = true ∧ t = resetRegisters s) ∨
    (i.rst = false ∧ s.fault = true ∧ t = holdFaulted s) ∨
    (i.rst = false ∧ s.fault = false ∧ i.rxErr = true ∧ t = enterFault .transportError s) ∨
    (i.rst = false ∧ s.fault = false ∧ i.rxErr = false ∧ i.rxValid = false ∧ t = idleCycle s) ∨
    (accepts i s = true ∧ s.rem = 0 ∧ t = statusByteStep Config.pA0Len i.rxData s) ∨
    (accepts i s = true ∧ s.rem ≠ 0 ∧ s.rem = s.len ∧ t = dataByteStep .data1 i.rxData s) ∨
    (accepts i s = true ∧ s.rem ≠ 0 ∧ s.rem ≠ s.len ∧ t = dataByteStep .data2 i.rxData s) :=
  cycleWith_cases Config.pA0Len i s t (cycleWith_pA0Len ▸ h)

theorem cycle_answers_next (i : In) (s : State) : ∃ t, cycle i s = .next t :=
  cycleWith_pA0Len ▸ cycleWith_answers_next Config.pA0Len i s

/-! ### Steps and runs -/

/-- With a placed input the step is the cycle on it. -/
theorem step_place_cons (i : In) (is : List In) (s : State) :
    step (place (i :: is) s) = cycle i (place is s) := rfl

theorem stepWith_answers_next (p : A0Len) (s : State) : ∃ t, stepWith p s = .next t :=
  cycleWith_answers_next p _ _

theorem step_answers_next (s : State) : ∃ t, step s = .next t := cycle_answers_next _ _

@[simp] theorem run_zero (s : State) : Host.Core.run Sys2Proof.core 0 s = .next s := rfl

theorem run_succ (k : Nat) (s t : State) (h : step s = .next t) :
    Host.Core.run Sys2Proof.core (k + 1) s = Host.Core.run Sys2Proof.core k t := by
  have h' : Sys2Proof.core.step s = .next t := h
  simp only [Host.Core.run, h']

@[simp] theorem deliveries_zero (s : State) : deliveries 0 s = [] := rfl

theorem deliveries_succ (k : Nat) (s t : State) (h : step s = .next t) :
    deliveries (k + 1) s = delivered t :: deliveries k t := by
  simp [deliveries, h]

@[simp] theorem place_nil (s : State) : place [] s = s := rfl

theorem place_append (is js : List In) (s : State) : place (is ++ js) s = place is (place js s) := by
  simp [place]

end Sys2Proof.Machine
end

