-- ==== Sys2Proof/Laws/PerInstr.lean ====
section
/-! SUPPORT. Facts about every instruction as syntax, one lemma per constructor. The family
`EncodesRow`: a well-formed instruction's byte is one its row of the opcode map admits (R53). -/

namespace Sys2Proof.Laws.EncodesRow

/-- The row of a well-formed instruction is in the table, and the instruction's byte passes the
row's match and mask test. -/
def Statement (i : Instr) : Prop := WellFormed i → i.row ∈ opcodeRows ∧ i.row.hits (encode i) = true

theorem noteOff (chan : BitVec 4) : Statement (.noteOff chan) := fun _ =>
  ⟨by simp [opcodeRows, Instr.row], by revert chan; decide⟩

theorem noteOn (chan : BitVec 4) : Statement (.noteOn chan) := fun _ =>
  ⟨by simp [opcodeRows, Instr.row], by revert chan; decide⟩

theorem ctrlChg (chan : BitVec 4) : Statement (.ctrlChg chan) := fun _ =>
  ⟨by simp [opcodeRows, Instr.row], by revert chan; decide⟩

theorem pitchBend (chan : BitVec 4) : Statement (.pitchBend chan) := fun _ =>
  ⟨by simp [opcodeRows, Instr.row], by revert chan; decide⟩

theorem progChg (chan : BitVec 4) : Statement (.progChg chan) := fun _ =>
  ⟨by simp [opcodeRows, Instr.row], by revert chan; decide⟩

theorem chanPres (chan : BitVec 4) : Statement (.chanPres chan) := fun _ =>
  ⟨by simp [opcodeRows, Instr.row], by revert chan; decide⟩

theorem clock : Statement .clock := fun _ => ⟨by simp [opcodeRows, Instr.row], by decide⟩

theorem actSense : Statement .actSense := fun _ => ⟨by simp [opcodeRows, Instr.row], by decide⟩

theorem unclLow (b : Byte) : Statement (.unclLow b) := fun h =>
  ⟨by simp [opcodeRows, Instr.row], h⟩

theorem polyAt (chan : BitVec 4) : Statement (.polyAt chan) := fun _ =>
  ⟨by simp [opcodeRows, Instr.row], by revert chan; decide⟩

theorem unclF0F7 (b : Byte) : Statement (.unclF0F7 b) := fun h =>
  ⟨by simp [opcodeRows, Instr.row], h⟩

theorem unclF9 : Statement .unclF9 := fun _ => ⟨by simp [opcodeRows, Instr.row], by decide⟩

theorem unclFAFB (b : Byte) : Statement (.unclFAFB b) := fun h =>
  ⟨by simp [opcodeRows, Instr.row], h⟩

theorem unclFCFD (b : Byte) : Statement (.unclFCFD b) := fun h =>
  ⟨by simp [opcodeRows, Instr.row], h⟩

theorem unclFF : Statement .unclFF := fun _ => ⟨by simp [opcodeRows, Instr.row], by decide⟩

theorem data1 (d : Byte) : Statement (.data1 d) := fun _ =>
  ⟨by simp [opcodeRows, Instr.row], by simp [OpRow.hits, Instr.row, rowData1]⟩

theorem data2 (d : Byte) : Statement (.data2 d) := fun _ =>
  ⟨by simp [opcodeRows, Instr.row], by simp [OpRow.hits, Instr.row, rowData2]⟩

end Sys2Proof.Laws.EncodesRow
end

