-- ==== Sys2Proof/Laws/Stream.lean ====
section
/-! SUPPORT. The small lemmas of the stream level: `presented`, `accept`, and one equation of
`frames` and `outstanding` per message length. -/

namespace Sys2Proof.Machine

@[simp] theorem presented_nil : presented [] = [] := rfl

theorem presented_cons (i : In) (is : List In) :
    presented (i :: is) = (if i.rxValid then [i.rxData] else []) ++ presented is := by
  cases h : i.rxValid <;> simp [presented, h]

@[simp] theorem presented_append (is js : List In) :
    presented (is ++ js) = presented is ++ presented js := by
  simp [presented]

theorem accept_eq (s t : State) (b : Byte) (h : cycle (In.byte b) s = .next t) :
    accept s b = (t, delivered t) := by
  have h' : cycleBy exec (In.byte b) s = .next t := h
  simp [accept, acceptBy, h']

theorem acceptWith_eq (p : A0Len) (s t : State) (b : Byte)
    (h : cycleWith p (In.byte b) s = .next t) : acceptWith p s b = (t, delivered t) := by
  have h' : cycleBy (execWith p) (In.byte b) s = .next t := h
  simp [acceptWith, acceptBy, h']

@[simp] theorem acceptAll_nil (s : State) : acceptAll s [] = [] := rfl

/-- One byte more: what it completes, and the rest from the state it leads to. -/
theorem acceptAll_cons (s : State) (b : Byte) (r : List Byte) :
    acceptAll s (b :: r) = (accept s b).2.toList ++ acceptAll (accept s b).1 r := rfl

@[simp] theorem acceptAllWith_nil (p : A0Len) (s : State) : acceptAllWith p s [] = [] := rfl

/-- One byte more: what it completes, and the rest from the state it leads to. -/
theorem acceptAllWith_cons (p : A0Len) (s t : State) (b : Byte) (r : List Byte)
    (h : cycleWith p (In.byte b) s = .next t) :
    acceptAllWith p s (b :: r) = (delivered t).toList ++ acceptAllWith p t r := by
  have h' : acceptBy (execWith p) s b = (t, delivered t) := acceptWith_eq p s t b h
  simp [acceptAllWith, acceptAllBy, h']

/-! ### `frames` and `outstanding`, by the count of the first byte -/

@[simp] theorem frames_nil (p : A0Len) : frames p [] = [] := rfl

@[simp] theorem outstanding_nil (p : A0Len) : outstanding p [] = 0 := rfl

theorem frames_of_zero (p : A0Len) (b : Byte) (r : List Byte) (h : dlen p b = 0) :
    frames p (b :: r) = ⟨b, 0x00, 0x00, 0⟩ :: frames p r := by
  simp [frames, h]

theorem frames_of_one (p : A0Len) (b d : Byte) (r : List Byte) (h : dlen p b = 1) :
    frames p (b :: d :: r) = ⟨b, d, 0x00, 1⟩ :: frames p r := by
  simp [frames, h]

theorem frames_of_two (p : A0Len) (b d e : Byte) (r : List Byte) (h : dlen p b = 2) :
    frames p (b :: d :: e :: r) = ⟨b, d, e, 2⟩ :: frames p r := by
  simp [frames, h]

theorem frames_of_incomplete (p : A0Len) (b : Byte) (r : List Byte)
    (h : r.length < (dlen p b).toNat) : frames p (b :: r) = [] := by
  rcases dlen_cases p b with hd | hd | hd <;> simp only [hd] at h
  · simp at h
  · match r with
    | [] => simp [frames, hd]
    | _ :: _ => simp at h
  · match r with
    | [] => simp [frames, hd]
    | [_] => simp [frames, hd]
    | _ :: _ :: _ => simp at h

theorem outstanding_of_zero (p : A0Len) (b : Byte) (r : List Byte) (h : dlen p b = 0) :
    outstanding p (b :: r) = outstanding p r := by
  simp [outstanding, h]

theorem outstanding_of_one (p : A0Len) (b d : Byte) (r : List Byte) (h : dlen p b = 1) :
    outstanding p (b :: d :: r) = outstanding p r := by
  simp [outstanding, h]

theorem outstanding_of_two (p : A0Len) (b d e : Byte) (r : List Byte) (h : dlen p b = 2) :
    outstanding p (b :: d :: e :: r) = outstanding p r := by
  simp [outstanding, h]

end Sys2Proof.Machine
end

