-- ==== Sys2Proof/Tests/Slice0.lean ====
section
/-! SUPPORT. Tests, each one step or one value, expected results from the spec's test vectors
(95_test_vectors.md, section named at each group) or its encodings, and a witness for the hypotheses
of every statement that has some. -/

namespace Sys2Proof.Tests

open Sys2Proof Sys2Proof.Machine

/-! ### Helpers -/

/-- A state from its seven registers, with a trace placed. -/
def st (status data1 data2 : Byte) (len rem : Count) (v f : Bool) (is : List In) : State :=
  ⟨status, data1, data2, len, rem, v, f, is, 0⟩

/-- The state A of 2.3: a completed Note On is on the outputs. -/
def stA (is : List In) : State := st 0x90 0x40 0x7F 2 0 true false is

/-- X1 of 2.4: after 0xC0. -/
def stX1 (is : List In) : State := st 0xC0 0x00 0x00 1 1 false false is

/-- X2 of 2.4: after 0x90. -/
def stX2 (is : List In) : State := st 0x90 0x00 0x00 2 2 false false is

/-- X3 of 2.4: after 0x90 0x40. -/
def stX3 (is : List In) : State := st 0x90 0x40 0x00 2 1 false false is

/-- F3 of 2.5: X3 after `ERR`. -/
def stF3 (is : List In) : State := st 0x90 0x40 0x00 2 1 false true is

/-- Whether one step leads to `t`. -/
def stepsTo (s t : State) : Bool :=
  match step s with
  | .next u => decide (u = t)
  | .fault _ => false
  | .refused _ => false

/-! ### Ill-formed terms are refused (R84, R86, R88, R89) -/

theorem test_illformed_unclLow : ¬ WellFormed (.unclLow 0x80) := by decide
theorem test_illformed_unclF0F7 : ¬ WellFormed (.unclF0F7 0xF8) := by decide
theorem test_illformed_unclFAFB : ¬ WellFormed (.unclFAFB 0xFC) := by decide
theorem test_illformed_unclFCFD : ¬ WellFormed (.unclFCFD 0xFA) := by decide
theorem test_wellformed_edges : WellFormed (.unclLow 0x7F) ∧ WellFormed (.unclF0F7 0xF7) ∧
    WellFormed (.unclFAFB 0xFB) ∧ WellFormed (.unclFCFD 0xFD) := by decide

/-! ### Every constructor's byte, written out from the column "encoding" of the opcode table -/

theorem test_decode_noteOff : decode .s 0b10000011#8 = .noteOff 0b0011#4 := by decide
theorem test_decode_noteOn : decode .s 0b10011010#8 = .noteOn 0b1010#4 := by decide
theorem test_decode_ctrlChg : decode .s 0b10110001#8 = .ctrlChg 0b0001#4 := by decide
theorem test_decode_pitchBend : decode .s 0b11101111#8 = .pitchBend 0b1111#4 := by decide
theorem test_decode_progChg : decode .s 0b11000101#8 = .progChg 0b0101#4 := by decide
theorem test_decode_chanPres : decode .s 0b11010100#8 = .chanPres 0b0100#4 := by decide
theorem test_decode_clock : decode .s 0b11111000#8 = .clock := by decide
theorem test_decode_actSense : decode .s 0b11111110#8 = .actSense := by decide
theorem test_decode_unclLow : decode .s 0b00111100#8 = .unclLow 0x3C := by decide
theorem test_decode_polyAt : decode .s 0b10100101#8 = .polyAt 0b0101#4 := by decide
theorem test_decode_unclF0F7 : decode .s 0b11110010#8 = .unclF0F7 0xF2 := by decide
theorem test_decode_unclF9 : decode .s 0b11111001#8 = .unclF9 := by decide
theorem test_decode_unclFAFB : decode .s 0b11111010#8 = .unclFAFB 0xFA := by decide
theorem test_decode_unclFCFD : decode .s 0b11111101#8 = .unclFCFD 0xFD := by decide
theorem test_decode_unclFF : decode .s 0b11111111#8 = .unclFF := by decide
theorem test_decode_data1 : decode .d1 0b11111000#8 = .data1 0xF8 := by decide
theorem test_decode_data2 : decode .d2 0b10010000#8 = .data2 0x90 := by decide

theorem test_table_word : decodeTableWord 8 0xE3 = some (.pitchBend 0x3) := by decide
theorem test_table_word_width : decodeTableWord 16 0xE3 = none := by decide

/-- The first step after reset runs the placed byte: the example of R76. -/
theorem test_fetch_word :
    stepsTo (State.reset.withFetchWord 8 0x90) (st 0x90 0x00 0x00 2 2 false false []) = true := by
  decide

/-! ### The status-byte step, from state A (2.3) -/

theorem test_step_noteOff :
    stepsTo (stA [.byte 0x8F]) (st 0x8F 0x00 0x00 2 2 false false []) = true := by decide
theorem test_step_noteOn :
    stepsTo (stA [.byte 0x9A]) (st 0x9A 0x00 0x00 2 2 false false []) = true := by decide
theorem test_step_ctrlChg :
    stepsTo (stA [.byte 0xB1]) (st 0xB1 0x00 0x00 2 2 false false []) = true := by decide
theorem test_step_pitchBend :
    stepsTo (stA [.byte 0xEF]) (st 0xEF 0x00 0x00 2 2 false false []) = true := by decide
theorem test_step_progChg :
    stepsTo (stA [.byte 0xC5]) (st 0xC5 0x00 0x00 1 1 false false []) = true := by decide
theorem test_step_chanPres :
    stepsTo (stA [.byte 0xDF]) (st 0xDF 0x00 0x00 1 1 false false []) = true := by decide
theorem test_step_clock :
    stepsTo (stA [.byte 0xF8]) (st 0xF8 0x00 0x00 0 0 true false []) = true := by decide
theorem test_step_actSense :
    stepsTo (stA [.byte 0xFE]) (st 0xFE 0x00 0x00 0 0 true false []) = true := by decide
theorem test_step_unclLow :
    stepsTo (stA [.byte 0x7F]) (st 0x7F 0x00 0x00 0 0 true false []) = true := by decide
theorem test_step_polyAt :
    stepsTo (stA [.byte 0xA5]) (st 0xA5 0x00 0x00 0 0 true false []) = true := by decide
theorem test_step_unclF0F7 :
    stepsTo (stA [.byte 0xF2]) (st 0xF2 0x00 0x00 0 0 true false []) = true := by decide
theorem test_step_unclF9 :
    stepsTo (stA [.byte 0xF9]) (st 0xF9 0x00 0x00 0 0 true false []) = true := by decide
theorem test_step_unclFAFB :
    stepsTo (stA [.byte 0xFB]) (st 0xFB 0x00 0x00 0 0 true false []) = true := by decide
theorem test_step_unclFCFD :
    stepsTo (stA [.byte 0xFC]) (st 0xFC 0x00 0x00 0 0 true false []) = true := by decide
theorem test_step_unclFF :
    stepsTo (stA [.byte 0xFF]) (st 0xFF 0x00 0x00 0 0 true false []) = true := by decide

/-! ### The data-byte step (2.4), unreachable counts included (2.6) -/

theorem test_step_data1_last :
    stepsTo (stX1 [.byte 0x90]) (st 0xC0 0x90 0x00 1 0 true false []) = true := by decide
theorem test_step_data1_first :
    stepsTo (stX2 [.byte 0xF8]) (st 0x90 0xF8 0x00 2 1 false false []) = true := by decide
theorem test_step_data2 :
    stepsTo (stX3 [.byte 0xFF]) (st 0x90 0x40 0xFF 2 0 true false []) = true := by decide
theorem test_step_unreachable_33 :
    stepsTo (st 0x90 0x11 0x22 3 3 false false [.byte 0x55])
      (st 0x90 0x55 0x22 3 2 false false []) = true := by decide
theorem test_step_unreachable_01 :
    stepsTo (st 0x90 0x11 0x22 0 1 false false [.byte 0x55])
      (st 0x90 0x11 0x55 0 0 true false []) = true := by decide
theorem test_step_unreachable_13 :
    stepsTo (st 0x90 0x11 0x22 1 3 false false [.byte 0x55])
      (st 0x90 0x11 0x55 1 2 false false []) = true := by decide

/-! ### Control inputs and their priority (2.5) -/

theorem test_idle_clears_valid :
    stepsTo (stA [.idle 0xAA]) (st 0x90 0x40 0x7F 2 0 false false []) = true := by decide
theorem test_err_holds : stepsTo (stX3 [.err 0x00]) (stF3 []) = true := by decide
theorem test_err_over_byte : stepsTo (stX3 [.errByte 0x7F]) (stF3 []) = true := by decide
theorem test_faulted_drops_byte : stepsTo (stF3 [.byte 0xF8]) (stF3 []) = true := by decide
theorem test_faulted_ignores_err : stepsTo (stF3 [.errByte 0x7F]) (stF3 []) = true := by decide
theorem test_rst_over_fault : stepsTo (stF3 [.reset true true 0x7F]) State.reset = true := by decide
theorem test_rst_keeps_later_inputs :
    stepsTo (stX3 [.reset false true 0x7F, .byte 0x40])
      { State.reset with inputs := [.byte 0x40] } = true := by decide

/-! ### `frames` (section 1 and 2.7) -/

theorem test_frames_T9 : frames .zero [0x80, 0x3C, 0x40, 0xB0, 0x07, 0x7F] =
    [⟨0x80, 0x3C, 0x40, 2⟩, ⟨0xB0, 0x07, 0x7F, 2⟩] := by decide
theorem test_frames_data_like_status : frames .zero [0xB0, 0xF8, 0xFE, 0xFE] =
    [⟨0xB0, 0xF8, 0xFE, 2⟩, ⟨0xFE, 0x00, 0x00, 0⟩] := by decide
theorem test_frames_incomplete :
    frames .zero [0x90, 0x90, 0x90, 0x90] = [⟨0x90, 0x90, 0x90, 2⟩] ∧
      outstanding .zero [0x90, 0x90, 0x90, 0x90] = 2 := by decide
theorem test_frames_a0 : frames .zero [0xA0, 0x3C, 0x40] =
    [⟨0xA0, 0, 0, 0⟩, ⟨0x3C, 0, 0, 0⟩, ⟨0x40, 0, 0, 0⟩] ∧
      frames .two [0xA0, 0x3C, 0x40] = [⟨0xA0, 0x3C, 0x40, 2⟩] := by decide

/-! ### Witnesses: states and operands that meet the hypotheses of each statement -/

theorem witness_InvariantKeptByEveryStep :
    FramerInv (stX3 [.byte 0x7F]) ∧ ∃ t, step (stX3 [.byte 0x7F]) = .next t :=
  ⟨by decide, _, rfl⟩

theorem witness_ReachableControlPartsAreTheFifteen :
    (∃ t, Host.Core.run Sys2Proof.core 2 (place [.byte 0x90, .byte 0xFF] State.reset) = .next t) ∧
      (true, (2 : Count), (2 : Count), false) ∈ reachableControls :=
  ⟨⟨_, rfl⟩, by decide⟩

theorem witness_RstForcesResetStateFromAnyState :
    (stF3 [In.reset true true 0xFF]).inputs = In.reset true true 0xFF :: [] := rfl

theorem witness_BehaviourAfterResetDependsOnLaterInputsAlone :
    (stF3 [In.reset false false 0]).inputs = (stX1 [In.reset false false 0]).inputs ∧
      (stF3 [In.reset false false 0]).drawn = (stX1 [In.reset false false 0]).drawn ∧
      (nextInput (stF3 [In.reset false false 0])).rst = true := by decide

theorem witness_StepRunsTheDecodedInstruction :
    accepts (nextInput (stX1 [.byte 0xFF])) (stX1 [.byte 0xFF]) = true ∧
      decode (phaseOf (stX1 [.byte 0xFF])) (nextInput (stX1 [.byte 0xFF])).rxData =
        .data1 0xFF ∧
      (stX1 [.byte 0xFF]).inputs = In.byte 0xFF :: [] := by decide

theorem witness_BranchesReadOnlyWhatTheyShould_control :
    ((stF3 []).inputs = (stX2 []).inputs ∧ (stF3 []).drawn = (stX2 []).drawn) ∧
      (In.reset true true 0).rst = true ∧ (In.reset false false 1).rst = true ∧
      (stF3 []).fault = true ∧ (stX2 []).fault = false ∧
      ((In.err 0).rst = false ∧ (In.err 0).rxErr = true) ∧
      ((In.errByte 1).rst = false ∧ (In.errByte 1).rxErr = true) ∧
      ((In.idle 0).rst = false ∧ (In.idle 0).rxErr = false ∧ (In.idle 0).rxValid = false) := by
  decide

theorem witness_BranchesReadOnlyWhatTheyShould_byte :
    (accepts (.byte 0x90) (stA []) = true ∧ (stA []).rem = 0) ∧
      (stX2 []).fault = false ∧ (stX2 []).rem ≠ 0 ∧
      (∃ t, cycle (In.byte 0x00) (stX2 []) = .next t) ∧
      ∃ t, cycle (In.byte 0xFF) (stX2 []) = .next t :=
  ⟨by decide, rfl, by decide, ⟨_, rfl⟩, _, rfl⟩

/-- The two clauses on registers: branches 2, 3 and 4, and branch 6 in both phases. -/
theorem witness_BranchesReadOnlyWhatTheyShould_registers :
    (accepts (.byte 0x00) (stF3 []) = false ∧ (∃ t, cycle (.byte 0x00) (stF3 []) = .next t) ∧
      accepts (.errByte 0x00) (stX3 []) = false ∧
      (∃ t, cycle (.errByte 0x00) (stX3 []) = .next t) ∧
      accepts (.idle 0x00) (stX3 []) = false ∧ ∃ t, cycle (.idle 0x00) (stX3 []) = .next t) ∧
    (accepts (.byte 0x00) (stX2 []) = true ∧ (stX2 []).rem ≠ 0 ∧
      accepts (.byte 0x00) (stX3 []) = true ∧ (stX3 []).rem ≠ 0 ∧
      ∃ t, cycle (.byte 0x00) (stX3 []) = .next t) :=
  ⟨⟨rfl, ⟨_, rfl⟩, rfl, ⟨_, rfl⟩, rfl, _, rfl⟩, rfl, by decide, rfl, by decide, _, rfl⟩

/-- A step of each of the two ways a message completes. -/
theorem witness_MsgValidMarksExactlyTheCompletingByte :
    (∃ t, step (stA [.byte 0xFF]) = .next t ∧ t.msgValid = true) ∧
      (∃ t, step (stX1 [.byte 0x80]) = .next t ∧ t.msgValid = true) ∧
      ∃ t, step (stA [.byte 0x80]) = .next t ∧ t.msgValid = false :=
  ⟨⟨_, rfl, rfl⟩, ⟨_, rfl, rfl⟩, _, rfl, rfl⟩

theorem witness_RegistersAreWrittenOnlyByTheirSteps :
    (∃ t, step (stA [.byte 0x80]) = .next t ∧ t.status ≠ (stA []).status ∧
      t.data1 ≠ (stA []).data1 ∧ t.data2 ≠ (stA []).data2 ∧ t.rem ≠ (stA []).rem) ∧
    (∃ t, step (stA [.byte 0xFF]) = .next t ∧ t.len ≠ (stA []).len) ∧
    ∃ t, step (stA [.err 0]) = .next t ∧ t.fault ≠ (stA []).fault :=
  ⟨⟨_, rfl, by decide⟩, ⟨_, rfl, by decide⟩, _, rfl, by decide⟩

theorem witness_IdleCyclesOnlyClearMsgValid : (stA [.byte 0x90]).fault = false := rfl

theorem witness_DecodeOfEncodeIsTheInstruction :
    WellFormed (.unclLow 0x00) ∧ WellFormed (.noteOff 0xF) ∧ WellFormed (.data2 0xFF) := by decide

theorem witness_ExactlyOneRowAppliesToEveryByte : (stX3 []).fault = false := rfl

/-- Boundary values of each clause: 0xF8, 0xE0, 0xDF, 0xAF, 0xFF and 0x7F. -/
theorem witness_ClassifierFollowsTheTable :
    (0xE0#8 &&& 0xF0 ∈ [0x80#8, 0x90#8, 0xB0#8, 0xE0#8]) ∧ (0xDF#8 &&& 0xF0 ∈ [0xC0#8, 0xD0#8]) ∧
      (0xAF#8 &&& 0xF0 = 0xA0#8) ∧ (0xFF#8 ∉ [0xF8#8, 0xFE#8]) ∧
      (0xFF#8 &&& 0xF0 ∉ [0x80#8, 0x90#8, 0xA0#8, 0xB0#8, 0xC0#8, 0xD0#8, 0xE0#8]) ∧
      (0x7F#8 &&& 0xF0 ∉ [0x80#8, 0x90#8, 0xA0#8, 0xB0#8, 0xC0#8, 0xD0#8, 0xE0#8]) := by decide

theorem witness_PhaseFollowsLenAndRem :
    FramerInv (stX1 []) ∧ FramerInv (stX2 []) ∧ FramerInv (stX3 []) ∧ FramerInv (stA []) ∧
      phaseOf (stX1 []) = .d1 ∧ phaseOf (stX2 []) = .d1 ∧ phaseOf (stX3 []) = .d2 := by decide

/-- For `ChannelVoice2RowsOpenATwoByteMessage`, `ChannelVoice1RowsOpenAOneByteMessage`,
`SystemRealtimeRowsAreWholeMessages`, `FoldingAcceptGivesFramesWithEitherParameter`. -/
theorem witness_AtBoundary : AtBoundary State.reset ∧ AtBoundary (stA []) := by decide

theorem witness_PolyAtRowFollowsItsParameter :
    AtBoundary (stA []) ∧ 0x7F#8 &&& 0x80#8 = 0x00#8 ∧ 0x00#8 &&& 0x80#8 = 0x00#8 := by decide

/-- Each disjunct of `UnclassifiedRowsArePassedThrough`, at a boundary of its range. -/
theorem witness_UnclassifiedRowsArePassedThrough :
    AtBoundary (stA []) ∧ 0x7F#8 &&& 0x80#8 = 0x00#8 ∧ 0xF7#8 &&& 0xF8#8 = 0xF0#8 ∧
      0xFB#8 &&& 0xFE#8 = 0xFA#8 ∧ 0xFD#8 &&& 0xFE#8 = 0xFC#8 := by decide

theorem witness_Data1StoresTheFirstDataByte :
    ((stX1 []).fault = false ∧ (stX1 []).rem ≠ 0 ∧ (stX1 []).rem = (stX1 []).len ∧
      FramerInv (stX1 []) ∧ (stX1 []).len = 1) ∧
    ((stX2 []).fault = false ∧ (stX2 []).rem ≠ 0 ∧ (stX2 []).rem = (stX2 []).len ∧
      FramerInv (stX2 []) ∧ (stX2 []).len = 2) := by decide

theorem witness_Data2StoresTheSecondDataByte :
    (stX3 []).fault = false ∧ (stX3 []).rem ≠ 0 ∧ (stX3 []).rem ≠ (stX3 []).len ∧
      FramerInv (stX3 []) := by decide

theorem witness_StatusRowsWriteAllThreeSlotsAndKeepFault :
    WellFormed (.polyAt 0x5) ∧ (Instr.polyAt 0x5).row.phase = .s ∧ AtBoundary (stA []) ∧
      ∃ t, exec (.polyAt 0x5) (stA []) = .next t :=
  ⟨by decide, by decide, by decide, _, rfl⟩

/-- A row of the parameter and one at the end of its range. -/
theorem witness_StatusRowsAreTheStatusByteStep :
    WellFormed (.polyAt 0x5) ∧ (Instr.polyAt 0x5).row.phase = .s ∧ WellFormed (.unclLow 0x7F) ∧
      (Instr.unclLow 0x7F).row.phase = .s ∧ AtBoundary (stA []) := by decide

theorem witness_InvariantKeptByEveryStepWithEitherParameter :
    FramerInvWith .two (st 0xA5 0x00 0x00 2 2 false false [.byte 0x3C]) ∧
      ∃ t, stepWith .two (st 0xA5 0x00 0x00 2 2 false false [.byte 0x3C]) = .next t :=
  ⟨by decide, _, rfl⟩

/-- The example of R85 with `P_A0_LEN = 2`. -/
theorem test_a0_with_two :
    acceptAllWith .two State.reset [0xA0, 0x3C, 0x40] = [⟨0xA0, 0x3C, 0x40, 2⟩] := by decide

theorem witness_DataRowsWriteOneSlotAndKeepTheRest :
    ((stX1 []).fault = false ∧ (stX3 []).fault = false) ∧
    ((Instr.data1 0x05).row.phase = phaseOf (stX1 []) ∧ phaseOf (stX1 []) ≠ .s ∧
      ∃ t, exec (.data1 0x05) (stX1 []) = .next t) ∧
    (Instr.data2 0xFF).row.phase = phaseOf (stX3 []) ∧ phaseOf (stX3 []) ≠ .s ∧
      ∃ t, exec (.data2 0xFF) (stX3 []) = .next t :=
  ⟨⟨rfl, rfl⟩, ⟨by decide, by decide, _, rfl⟩, by decide, by decide, _, rfl⟩

theorem witness_EveryAcceptedByteIsStoredWhole :
    (stX2 [.byte 0xFF]).fault = false ∧ (stX2 [.byte 0xFF]).inputs = In.byte 0xFF :: [] :=
  ⟨rfl, rfl⟩

theorem witness_FaultEntryHoldsEverythingElse :
    (stX3 [.errByte 0x7F, .byte 0xF8]).fault = false ∧
      (stX3 [.errByte 0x7F, .byte 0xF8]).inputs = In.errByte 0x7F :: [In.byte 0xF8] ∧
      (In.errByte 0x7F).rst = false ∧ (In.errByte 0x7F).rxErr = true ∧
      (∀ j ∈ [In.byte 0xF8], j.rst = false) ∧
      ∃ t, Host.Core.run Sys2Proof.core 2 (stX3 [.errByte 0x7F, .byte 0xF8]) = .next t :=
  ⟨rfl, rfl, rfl, rfl, by decide, _, rfl⟩

theorem witness_FaultIsRaisedByRxErrAlone :
    (stX3 [.err 0]).fault = false ∧ ∃ t, step (stX3 [.err 0]) = .next t ∧ t.fault = true :=
  ⟨rfl, _, rfl, rfl⟩

theorem witness_FaultedFramerHoldsAndDropsBytes :
    (stF3 []).fault = true ∧ ∀ i ∈ [In.byte 0x7F, In.err 0, In.idle 0], i.rst = false := by decide

theorem witness_FaultIsLeftByResetAlone :
    (stF3 [.reset false false 0]).fault = true ∧
      ∃ t, step (stF3 [.reset false false 0]) = .next t ∧ t.fault = false :=
  ⟨rfl, _, rfl, rfl⟩

theorem witness_FaultIsPreciseWithRespectToMessages :
    ((stX1 [.byte 0x05, .err 0]).inputs = In.byte 0x05 :: In.err 0 :: [] ∧
      (In.err 0).rst = false ∧ (In.err 0).rxErr = true ∧ (stX1 [.byte 0x05, .err 0]).fault = false ∧
      ∃ t, step (stX1 [.byte 0x05, .err 0]) = .next t ∧ t.msgValid = true) ∧
    (stX1 [.errByte 0x05]).inputs = In.errByte 0x05 :: [] ∧
      (stX1 [.errByte 0x05]).fault = false :=
  ⟨⟨rfl, rfl, rfl, rfl, _, rfl, rfl⟩, rfl, rfl⟩

/-- Each clause of `PhaseTransitionsFollowTheTable`: the three counts, the three open states, a
reset, and a cycle that accepts nothing. -/
theorem witness_PhaseTransitionsFollowTheTable :
    (AtBoundary (stA []) ∧ dlen Config.pA0Len 0xFF = 0 ∧ dlen Config.pA0Len 0xC0 = 1 ∧
      dlen Config.pA0Len 0x8F = 2) ∧
    (FramerInv (stX1 []) ∧ (stX1 []).fault = false ∧ phaseOf (stX1 []) ≠ .s) ∧
    (FramerInv (stX2 []) ∧ (stX2 []).fault = false ∧ phaseOf (stX2 []) ≠ .s) ∧
    (FramerInv (stX3 []) ∧ (stX3 []).fault = false ∧ phaseOf (stX3 []) ≠ .s) ∧
    (nextInput (stX3 [.reset true true 0])).rst = true ∧
    (nextInput (stX3 [.idle 0])).rst = false ∧
      accepts (nextInput (stX3 [.idle 0])) (stX3 [.idle 0]) = false := by decide

theorem witness_OpenMessageClosesAfterExactlyRemBytes :
    FramerInv (stX2 []) ∧ (stX2 []).fault = false ∧ (stX2 []).rem ≠ 0 ∧
      [0x80#8, 0xFF#8].length ≤ (stX2 []).rem.toNat := by decide

theorem witness_DeliveredMessageIsWholeAndZeroFilled :
    FramerInv (stA []) ∧ delivered (stA []) = some ⟨0x90, 0x40, 0x7F, 2⟩ := by decide

theorem witness_ConsecutiveWholeMessagesAreDeliveredOneByOne :
    AtBoundary (stA []) ∧ ∀ b ∈ [0xF8#8, 0xF8#8, 0x00#8], dlen Config.pA0Len b = 0 := by decide

theorem witness_ResidueOfEarlierMessagesIsNeverRead :
    AtBoundary (stA [.byte 0x90]) ∧ AtBoundary (place [.byte 0x90] State.reset) ∧
      (stA [.byte 0x90]).inputs = (place [.byte 0x90] State.reset).inputs ∧
      (stA [.byte 0x90]).drawn = (place [.byte 0x90] State.reset).drawn := by decide

theorem witness_FramesEquationsAndPrefixMonotone : [0x40#8].length < (dlen .two 0xA0).toNat := by
  decide

theorem witness_StepsDeliverTheFramesOfTheBytes :
    AtBoundary State.reset ∧
      (∀ i ∈ [In.byte 0xC0, In.idle 0xFF, In.byte 0x05], i.rst = false ∧ i.rxErr = false) ∧
      [In.byte 0xC0, In.idle 0xFF, In.byte 0x05] = [In.byte 0xC0] ++ In.idle 0xFF :: [In.byte 0x05] := by
  decide

end Sys2Proof.Tests
end

section
/-! The invariants of R21: every shared operation keeps them, so every step and every run does; and
the counts they leave an open message. -/

namespace Sys2Proof.Machine

/-! ### The counts of an open message -/

/-- With `LEN` not 3 and `REM` not above it, three of the 16 pairs of counts have `REM` not 0. -/
theorem openCounts : ∀ l r : Count, l ≠ 3 → r ≤ l → r ≠ 0 →
    (l = 1 ∧ r = 1) ∨ (l = 2 ∧ r = 2) ∨ (l = 2 ∧ r = 1) := by
  decide

/-- The three pairs `(LEN, REM)` of an open message that R21 allows. -/
theorem openCounts_of_framerInvWith {p : A0Len} {s : State} (h : FramerInvWith p s)
    (hr : s.rem ≠ 0) :
    (s.len = 1 ∧ s.rem = 1) ∨ (s.len = 2 ∧ s.rem = 2) ∨ (s.len = 2 ∧ s.rem = 1) := by
  obtain ⟨⟨hl, hle⟩, -⟩ := h
  exact openCounts _ _ hl hle hr

/-- In phase D2 of a state with the invariants, one byte of two is missing. -/
theorem counts_of_rem_ne_len {p : A0Len} {s : State} (h : FramerInvWith p s) (hr : s.rem ≠ 0)
    (hl : s.rem ≠ s.len) : s.len = 2 ∧ s.rem = 1 := by
  rcases openCounts_of_framerInvWith h hr with ⟨h1, h2⟩ | ⟨h1, h2⟩ | h21
  · exact absurd (h2.trans h1.symm) hl
  · exact absurd (h2.trans h1.symm) hl
  · exact h21

/-! ### One lemma per operation -/

/-- The filler 0x00 that reset puts into `STATUS` requires no data byte, as its `LEN` says. -/
theorem dlen_zero (p : A0Len) : dlen p 0x00#8 = 0 := by cases p <;> decide

theorem framerInvWith_of_zero {p : A0Len} {s : State} (hst : s.status = 0) (hd1 : s.data1 = 0)
    (hd2 : s.data2 = 0) (hl : s.len = 0) (hr : s.rem = 0) (hv : s.msgValid = false) :
    FramerInvWith p s := by
  simp [FramerInvWith, hst, hd1, hd2, hl, hr, hv, dlen_zero]

theorem framerInvWith_reset (p : A0Len) : FramerInvWith p State.reset :=
  framerInvWith_of_zero rfl rfl rfl rfl rfl rfl

theorem resetRegisters_framerInvWith (p : A0Len) (s : State) :
    FramerInvWith p (resetRegisters s) :=
  framerInvWith_of_zero rfl rfl rfl rfl rfl rfl

/-- Clearing `MSG_VALID` keeps the invariants, whatever becomes of `FAULT`: what the faulted cycle,
the fault entry and the idle cycle have in common. -/
theorem framerInvWith_clear {p : A0Len} {s : State} (h : FramerInvWith p s) (f : Bool) :
    FramerInvWith p { s with fault := f, msgValid := false } := by
  obtain ⟨hc, hs, -, -, h1, h2⟩ := h
  exact ⟨hc, hs, nofun, fun _ => rfl, h1, h2⟩

theorem statusByteStep_framerInvWith (p : A0Len) (b : Byte) {s : State} (hf : s.fault = false) :
    FramerInvWith p (statusByteStep p b s) := by
  rcases dlen_cases p b with h | h | h <;> simp [FramerInvWith, h, hf, validAfterStatus]

theorem dataByteStep_data1_framerInvWith {p : A0Len} (d : Byte) {s : State}
    (h : FramerInvWith p s) (hf : s.fault = false) (hr : s.rem ≠ 0) (hl : s.rem = s.len) :
    FramerInvWith p (dataByteStep .data1 d s) := by
  have hd2 : s.data2 = 0x00 := h.2.2.2.2.2 (by simp [hl])
  have hs : s.len = dlen p s.status := h.2.1
  rcases openCounts_of_framerInvWith h hr with ⟨h1, h2⟩ | ⟨h1, h2⟩ | ⟨h1, h2⟩ <;>
    simp [FramerInvWith, validAfterData, ← hs, hd2, hf, h1, h2]

theorem dataByteStep_data2_framerInvWith {p : A0Len} (d : Byte) {s : State}
    (h : FramerInvWith p s) (hf : s.fault = false) (hr : s.rem ≠ 0) (hl : s.rem ≠ s.len) :
    FramerInvWith p (dataByteStep .data2 d s) := by
  have hs : s.len = dlen p s.status := h.2.1
  obtain ⟨h1, h2⟩ := counts_of_rem_ne_len h hr hl
  simp [FramerInvWith, validAfterData, ← hs, hf, h1, h2]

/-! ### Cycles, steps and runs -/

theorem cycleWith_keeps_framerInvWith {p : A0Len} {i : In} {s t : State} (hs : FramerInvWith p s)
    (h : cycleWith p i s = .next t) : FramerInvWith p t := by
  have running (ha : accepts i s = true) : s.fault = false := ((accepts_iff i s).1 ha).2.1
  rcases cycleWith_cases p i s t h with
    ⟨-, rfl⟩ | ⟨-, -, rfl⟩ | ⟨-, -, -, rfl⟩ | ⟨-, -, -, -, rfl⟩ | ⟨ha, -, rfl⟩ |
      ⟨ha, hr, hl, rfl⟩ | ⟨ha, hr, hl, rfl⟩
  · exact resetRegisters_framerInvWith p s
  · exact framerInvWith_clear hs s.fault
  · exact framerInvWith_clear hs true
  · exact framerInvWith_clear hs s.fault
  · exact statusByteStep_framerInvWith p _ (running ha)
  · exact dataByteStep_data1_framerInvWith _ hs (running ha) hr hl
  · exact dataByteStep_data2_framerInvWith _ hs (running ha) hr hl

/-- Taking the input of a cycle does not touch the registers the invariants speak of. -/
theorem popInput_framerInvWith {p : A0Len} {s : State} :
    FramerInvWith p (popInput s) ↔ FramerInvWith p s := by
  simp only [FramerInvWith, popInput_status, popInput_data1, popInput_data2, popInput_len,
    popInput_rem, popInput_msgValid, popInput_fault]

theorem place_framerInvWith {p : A0Len} {is : List In} {s : State} :
    FramerInvWith p (place is s) ↔ FramerInvWith p s := Iff.rfl

theorem stepWith_keeps_framerInvWith {p : A0Len} {s t : State} (hs : FramerInvWith p s)
    (h : stepWith p s = .next t) : FramerInvWith p t :=
  cycleWith_keeps_framerInvWith (popInput_framerInvWith.2 hs) h

theorem step_keeps_framerInv {s t : State} (hs : FramerInv s) (h : step s = .next t) :
    FramerInv t :=
  stepWith_keeps_framerInvWith hs (stepWith_pA0Len ▸ h)

/-- What every step keeps, every run keeps. -/
theorem run_keeps {P : State → Prop} (hP : ∀ s t, P s → step s = .next t → P t) {k : Nat}
    {s t : State} (hs : P s) (h : Host.Core.run Sys2Proof.core k s = .next t) : P t := by
  induction k generalizing s with
  | zero => exact Host.Outcome.next.inj h ▸ hs
  | succ k ih =>
    obtain ⟨u, hu⟩ := step_answers_next s
    rw [run_succ k s u hu] at h
    exact ih (hP s u hs hu) h

theorem run_from_reset_framerInv {is : List In} {k : Nat} {t : State}
    (h : Host.Core.run Sys2Proof.core k (place is State.reset) = .next t) : FramerInv t :=
  run_keeps (fun _ _ => step_keeps_framerInv)
    (place_framerInvWith.2 (framerInvWith_reset Config.pA0Len)) h

end Sys2Proof.Machine
end

section
/-! The control parts that runs from reset reach (R21): the invariants admit no other than the 15,
and each of the 15 has a trace. -/

namespace Sys2Proof.Machine

/-- The 15 control parts are what the first, third and fourth invariant of R21 admit. -/
theorem mem_reachableControls_iff (f : Bool) (l r : Count) (v : Bool) :
    (f, l, r, v) ∈ reachableControls ↔
      (l ≠ 3 ∧ r ≤ l) ∧ (v = true → r = 0) ∧ (f = true → v = false) := by
  revert f l r v
  decide

theorem controlOf_mem_reachableControls {s : State} (h : FramerInv s) :
    controlOf s ∈ reachableControls := by
  obtain ⟨hc, -, hv, hf, -⟩ := h
  exact (mem_reachableControls_iff _ _ _ _).2 ⟨hc, hv, hf⟩

/-- A byte that opens a message of the given count, for the counts 0, 1 and 2. -/
def statusByteFor (l : Count) : Byte := if l = 0 then 0x00 else if l = 1 then 0xC0 else 0x90

/-- A trace to a given control part: a status byte for `LEN`, data bytes down to `REM`, an idle
cycle where `MSG_VALID` is to be 0, an error where `FAULT` is to be 1. -/
def traceTo : Bool × Count × Count × Bool → List In
  | (f, l, r, v) =>
    .byte (statusByteFor l) :: List.replicate (l.toNat - r.toNat) (.byte 0x00) ++
      (if v then [] else [.idle 0x00]) ++ (if f then [.err 0x00] else [])

/-- The control part after the whole of a trace placed at reset. -/
def controlAfter (is : List In) : Option (Bool × Count × Count × Bool) :=
  match Host.Core.run Sys2Proof.core is.length (place is State.reset) with
  | .next t => some (controlOf t)
  | .fault _ => none
  | .refused _ => none

theorem exists_run_of_controlAfter {is : List In} {c : Bool × Count × Count × Bool}
    (h : controlAfter is = some c) :
    ∃ t : State, Host.Core.run Sys2Proof.core is.length (place is State.reset) = .next t ∧
      controlOf t = c := by
  unfold controlAfter at h
  split at h
  case h_1 t ht => exact ⟨t, ht, Option.some.inj h⟩
  case h_2 => cases h
  case h_3 => cases h

theorem controlAfter_traceTo :
    ∀ c ∈ reachableControls, controlAfter (traceTo c) = some c := by
  decide

/-- Settles O4: the invariants bound the control parts from above, the traces `traceTo` from
below. -/
theorem reachableControlPartsAreTheFifteen : Obligations.ReachableControlPartsAreTheFifteen := by
  refine ⟨fun _ _ _ h => run_from_reset_framerInv h, fun c => ⟨fun hc => ?_, ?_⟩⟩
  · exact ⟨traceTo c, exists_run_of_controlAfter (controlAfter_traceTo c hc)⟩
  · rintro ⟨is, t, ht, rfl⟩
    exact controlOf_mem_reachableControls (run_from_reset_framerInv ht)

end Sys2Proof.Machine
end

section
/-! `MSG_VALID` (R18): what every cycle makes of it, and that no cycle reads it. -/

namespace Sys2Proof.Machine

theorem validAfterStatus_iff (n : Count) : validAfterStatus n = true ↔ n = 0 := beq_iff_eq

theorem validAfterData_iff (n : Count) : validAfterData n = true ↔ n = 1 := beq_iff_eq

/-- A cycle that accepts no byte clears `MSG_VALID`; the byte steps set it by their counts. -/
theorem cycle_msgValid_iff {i : In} {s t : State} (h : cycle i s = .next t) :
    t.msgValid = true ↔
      accepts i s = true ∧ ((s.rem = 0 ∧ dlen Config.pA0Len i.rxData = 0) ∨ s.rem = 1) := by
  rcases cycle_cases i s t h with
    ⟨hi, rfl⟩ | ⟨-, hf, rfl⟩ | ⟨-, -, he, rfl⟩ | ⟨-, -, -, hv, rfl⟩ | ⟨ha, hr, rfl⟩ |
      ⟨ha, hr, -, rfl⟩ | ⟨ha, hr, -, rfl⟩
  · simp [accepts, hi]
  · simp [accepts, hf]
  · simp [accepts, he]
  · simp [accepts, hv]
  · simp [ha, hr, validAfterStatus_iff]
  · simp only [ha, hr, dataByteStep_msgValid, validAfterData_iff, false_and, false_or, true_and]
  · simp only [ha, hr, dataByteStep_msgValid, validAfterData_iff, false_and, false_or, true_and]

theorem exec_ignores_msgValid (i : Instr) (s : State) (v : Bool) :
    exec i { s with msgValid := v } = exec i s := by
  cases i <;> rfl

theorem cycle_ignores_msgValid (i : In) (s : State) (v : Bool) :
    cycle i { s with msgValid := v } = cycle i s := by
  have hp : phaseOf { s with msgValid := v } = phaseOf s := rfl
  simp only [cycle, cycleBy, hp, exec_ignores_msgValid]
  rfl

theorem popInput_with_msgValid (s : State) (v : Bool) :
    popInput { s with msgValid := v } = { popInput s with msgValid := v } := by
  cases h : s.inputs <;> simp [popInput, h]

theorem step_ignores_msgValid (s : State) (v : Bool) :
    step { s with msgValid := v } = step s := by
  rw [step, popInput_with_msgValid]
  exact cycle_ignores_msgValid (nextInput s) (popInput s) v

/-- Settles O10, from what one cycle makes of `MSG_VALID` and that none reads it. -/
theorem msgValidMarksExactlyTheCompletingByte :
    Obligations.MsgValidMarksExactlyTheCompletingByte := by
  refine ⟨fun s t h => ?_, step_ignores_msgValid, fun _ => rfl, rfl⟩
  have hc := cycle_msgValid_iff (i := nextInput s) (s := popInput s) h
  simpa only [accepts_iff, popInput_fault, popInput_rem, and_assoc] using hc

end Sys2Proof.Machine
end

section
/-! The phase (R20, R32), the reset state (R22) and the output ports (R12). -/

namespace Sys2Proof.Machine

theorem phaseOf_eq_s_iff (s : State) : phaseOf s = .s ↔ s.rem = 0 := by
  unfold phaseOf
  split_ifs <;> simp_all

theorem phaseOf_eq_d1_iff (s : State) : phaseOf s = .d1 ↔ s.rem ≠ 0 ∧ s.rem = s.len := by
  unfold phaseOf
  split_ifs <;> simp_all

theorem phaseOf_eq_d2_iff (s : State) : phaseOf s = .d2 ↔ s.rem ≠ 0 ∧ s.rem ≠ s.len := by
  unfold phaseOf
  split_ifs <;> simp_all

/-- With the invariants, D1 is a message none of whose one or two data bytes has come. -/
theorem phaseOf_eq_d1_iff_counts {s : State} (h : FramerInv s) :
    phaseOf s = .d1 ↔ (s.len = 1 ∧ s.rem = 1) ∨ (s.len = 2 ∧ s.rem = 2) := by
  rw [phaseOf_eq_d1_iff]
  constructor
  · rintro ⟨hr, hl⟩
    rcases openCounts_of_framerInvWith h hr with h1 | h2 | ⟨h1, h2⟩
    · exact .inl h1
    · exact .inr h2
    · simp [h1, h2] at hl
  · rintro (⟨h1, h2⟩ | ⟨h1, h2⟩) <;> simp [h1, h2]

/-- With the invariants, D2 is a message of two data bytes of which one has come. -/
theorem phaseOf_eq_d2_iff_counts {s : State} (h : FramerInv s) :
    phaseOf s = .d2 ↔ s.len = 2 ∧ s.rem = 1 := by
  rw [phaseOf_eq_d2_iff]
  constructor
  · rintro ⟨hr, hl⟩
    exact counts_of_rem_ne_len h hr hl
  · rintro ⟨h1, h2⟩
    simp [h1, h2]

/-- The next data byte goes to the slot after those already collected. -/
theorem slotIndex_slotOf {s : State} (h : FramerInv s) (hp : phaseOf s ≠ .s) :
    slotIndex (slotOf s) = s.len.toNat - s.rem.toNat + 1 := by
  cases hq : phaseOf s with
  | s => exact absurd hq hp
  | d1 =>
    obtain ⟨-, hl⟩ := (phaseOf_eq_d1_iff s).1 hq
    simp [slotOf, hq, slotIndex, hl]
  | d2 =>
    obtain ⟨h1, h2⟩ := (phaseOf_eq_d2_iff_counts h).1 hq
    simp [slotOf, hq, slotIndex, h1, h2]

/-- Settles O19, phase by phase. -/
theorem phaseFollowsLenAndRem : Obligations.PhaseFollowsLenAndRem :=
  ⟨fun s => ⟨phaseOf_eq_s_iff s, phaseOf_eq_d1_iff s, phaseOf_eq_d2_iff s, fun _ => rfl⟩,
    fun _ h => ⟨phaseOf_eq_d1_iff_counts h, phaseOf_eq_d2_iff_counts h, slotIndex_slotOf h⟩⟩

/-- Settles O1: the registers by definition, the phase by `REM`, the outputs by `MSG_VALID`. -/
theorem resetStateIsAllZeroInPhaseS : Obligations.ResetStateIsAllZeroInPhaseS :=
  ⟨rfl, rfl, rfl, rfl, rfl, rfl, rfl, phaseOf_of_rem_zero _ rfl, delivered_of_not_valid _ rfl⟩

/-- Settles O43: the ports by definition, the message by the two values of `MSG_VALID`. -/
theorem outputPortsAreTheRegisters : Obligations.OutputPortsAreTheRegisters := by
  refine fun s => ⟨rfl, ?_⟩
  cases h : s.msgValid with
  | true => exact delivered_of_valid s h
  | false => exact delivered_of_not_valid s h

end Sys2Proof.Machine
end

section
/-! The opcode map (R53, R58): every byte decodes to an instruction whose row applies to it, and no
other row does, since the rows of one phase are disjoint. -/

namespace Sys2Proof.Machine

/-- The family `EncodesRow` put together, for every instruction. -/
theorem encode_hits_row (i : Instr) : Laws.EncodesRow.Statement i := by
  cases i with
  | noteOff c => exact Laws.EncodesRow.noteOff c
  | noteOn c => exact Laws.EncodesRow.noteOn c
  | ctrlChg c => exact Laws.EncodesRow.ctrlChg c
  | pitchBend c => exact Laws.EncodesRow.pitchBend c
  | progChg c => exact Laws.EncodesRow.progChg c
  | chanPres c => exact Laws.EncodesRow.chanPres c
  | clock => exact Laws.EncodesRow.clock
  | actSense => exact Laws.EncodesRow.actSense
  | unclLow b => exact Laws.EncodesRow.unclLow b
  | polyAt c => exact Laws.EncodesRow.polyAt c
  | unclF0F7 b => exact Laws.EncodesRow.unclF0F7 b
  | unclF9 => exact Laws.EncodesRow.unclF9
  | unclFAFB b => exact Laws.EncodesRow.unclFAFB b
  | unclFCFD b => exact Laws.EncodesRow.unclFCFD b
  | unclFF => exact Laws.EncodesRow.unclFF
  | data1 d => exact Laws.EncodesRow.data1 d
  | data2 d => exact Laws.EncodesRow.data2 d

/-- In every phase a byte decodes to a well-formed instruction of that phase that encodes to it. -/
theorem decode_row (p : Phase) (b : Byte) :
    WellFormed (decode p b) ∧ (decode p b).row.phase = p ∧ encode (decode p b) = b := by
  cases p with
  | s => exact decodeStatus_row b
  | d1 | d2 => exact ⟨rfl, rfl, rfl⟩

theorem opRow_applies_iff (r : OpRow) (p : Phase) (b : Byte) :
    r.applies p b = true ↔ r.phase = p ∧ b &&& r.mask = r.value := by
  simp [OpRow.applies, OpRow.hits]

theorem decode_row_mem (p : Phase) (b : Byte) : (decode p b).row ∈ opcodeRows :=
  (encode_hits_row _ (decode_row p b).1).1

theorem decode_row_applies (p : Phase) (b : Byte) : (decode p b).row.applies p b = true := by
  obtain ⟨hw, hp, he⟩ := decode_row p b
  have hh := (encode_hits_row _ hw).2
  rw [he] at hh
  simp [OpRow.applies, hp, hh]

/-- Two different rows of one phase ask for different values of a bit that both masks test. -/
theorem opcodeRows_disjoint : ∀ r ∈ opcodeRows, ∀ q ∈ opcodeRows,
    r.phase = q.phase → r.value &&& q.mask = q.value &&& r.mask → r = q := by
  decide

/-- At most one row applies: on the bits that both masks test, both values are the byte's. -/
theorem eq_of_applies {r q : OpRow} {p : Phase} {b : Byte} (hr : r ∈ opcodeRows)
    (hq : q ∈ opcodeRows) (har : r.applies p b = true) (haq : q.applies p b = true) : r = q := by
  obtain ⟨hpr, hvr⟩ := (opRow_applies_iff r p b).1 har
  obtain ⟨hpq, hvq⟩ := (opRow_applies_iff q p b).1 haq
  refine opcodeRows_disjoint r hr q hq (hpr.trans hpq.symm) ?_
  rw [← hvr, ← hvq, BitVec.and_assoc, BitVec.and_assoc, BitVec.and_comm r.mask]

/-- Settles O16: the decoded instruction's row applies, the rows are disjoint, and `exec` is a
function that answers a next state. -/
theorem exactlyOneRowAppliesToEveryByte : Obligations.ExactlyOneRowAppliesToEveryByte := by
  intro s b _
  have hmem := decode_row_mem (phaseOf s) b
  have happ := decode_row_applies (phaseOf s) b
  obtain ⟨t, ht⟩ := exec_answers_next (decode (phaseOf s) b) s
  refine ⟨⟨_, ⟨hmem, happ⟩, ?_⟩, happ, hmem, t, ht, fun u hu => ?_⟩
  · rintro r ⟨hr, har⟩
    exact eq_of_applies hr hmem har happ
  · exact Host.Outcome.next.inj (hu.symm.trans ht)

end Sys2Proof.Machine
end

section
/-! The classifier (R50) and the count of data bytes (R49, R51). -/

namespace Sys2Proof.Machine

theorem classify_realtime (p : A0Len) {b : Byte} (h : b = 0xF8 ∨ b = 0xFE) :
    classify p b = .systemRealtime :=
  if_pos h

/-- Every byte but the two real-time values is classified by its high nibble. -/
theorem classify_of_not_realtime (p : A0Len) {b : Byte} (h : ¬(b = 0xF8 ∨ b = 0xFE)) :
    classify p b =
      if highNibble b ∈ [0x80#8, 0x90#8, 0xB0#8, 0xE0#8] then .channelVoice2
      else if highNibble b ∈ [0xC0#8, 0xD0#8] then .channelVoice1
      else if highNibble b = 0xA0 ∧ p = .two then .channelVoice2
      else .unclassified := by
  rw [classify, if_neg h]
  simp

/-- Both real-time values have the high nibble 0xF. -/
theorem not_realtime_of_highNibble {b : Byte} (h : highNibble b ≠ 0xF0) :
    ¬(b = 0xF8 ∨ b = 0xFE) := by
  rintro (rfl | rfl) <;> exact h rfl

theorem classify_channelVoice2 (p : A0Len) {b : Byte}
    (h : highNibble b ∈ [0x80#8, 0x90#8, 0xB0#8, 0xE0#8]) : classify p b = .channelVoice2 := by
  have hF : ∀ n ∈ [0x80#8, 0x90#8, 0xB0#8, 0xE0#8], n ≠ 0xF0 := by decide
  rw [classify_of_not_realtime p (not_realtime_of_highNibble (hF _ h)), if_pos h]

theorem classify_channelVoice1 (p : A0Len) {b : Byte}
    (h : highNibble b ∈ [0xC0#8, 0xD0#8]) : classify p b = .channelVoice1 := by
  have hF : ∀ n ∈ [0xC0#8, 0xD0#8], n ≠ 0xF0 := by decide
  have h2 : ∀ n ∈ [0xC0#8, 0xD0#8], n ∉ [0x80#8, 0x90#8, 0xB0#8, 0xE0#8] := by decide
  rw [classify_of_not_realtime p (not_realtime_of_highNibble (hF _ h)), if_neg (h2 _ h), if_pos h]

/-- The one line that the parameter decides. -/
theorem classify_polyAt (p : A0Len) {b : Byte} (h : highNibble b = 0xA0) :
    classify p b = if p = .two then .channelVoice2 else .unclassified := by
  have hF : highNibble b ≠ 0xF0 := by simp [h]
  simp [classify_of_not_realtime p (not_realtime_of_highNibble hF), h]

theorem classify_unclassified (p : A0Len) {b : Byte} (hb : b ∉ [0xF8#8, 0xFE#8])
    (h : highNibble b ∉ [0x80#8, 0x90#8, 0xA0#8, 0xB0#8, 0xC0#8, 0xD0#8, 0xE0#8]) :
    classify p b = .unclassified := by
  have hr : ¬(b = 0xF8 ∨ b = 0xFE) := by simpa using hb
  simp only [List.mem_cons, List.not_mem_nil, or_false, not_or] at h
  simp [classify_of_not_realtime p hr, h]

/-- Settles O17, line by line of the table of R50. -/
theorem classifierFollowsTheTable : Obligations.ClassifierFollowsTheTable :=
  ⟨rfl, fun p _ => ⟨classify_realtime p, classify_channelVoice2 p, classify_channelVoice1 p,
    classify_polyAt p, classify_unclassified p⟩⟩

/-- Settles O18, from the count of a byte put together from its nibbles. -/
theorem dataByteCountByHighNibble : Obligations.DataByteCountByHighNibble := by
  refine ⟨rfl, rfl, rfl, rfl, fun hi lo => ⟨rfl, (dlen_formatS hi lo).trans ?_⟩⟩
  simp

end Sys2Proof.Machine
end

section
/-! One cycle, branch by branch: the cycles that accept no byte (branches 2 to 4 of R60) have one
form, and each byte step says where it leads and what it delivers (R64, R65, R67). -/

namespace Sys2Proof.Machine

/-! ### Cycles that accept no byte -/

/-- Branches 2 to 4 together: `MSG_VALID` is cleared, and `FAULT` takes up a transport error. -/
theorem cycle_of_not_accepted {i : In} {s : State} (hr : i.rst = false)
    (ha : accepts i s = false) :
    cycle i s = .next { s with fault := s.fault || i.rxErr, msgValid := false } := by
  cases hf : s.fault with
  | true => rw [cycle_faulted i s hr hf, holdFaulted, hf]; rfl
  | false =>
    cases he : i.rxErr with
    | true => rw [cycle_err i s hr hf he]; rfl
    | false =>
      have hv : i.rxValid = false := by simpa [accepts, hr, hf, he] using ha
      rw [cycle_idle i s hr hf he hv, idleCycle, hf]; rfl

theorem accepts_eq_rxValid {i : In} {s : State} (hr : i.rst = false) (he : i.rxErr = false)
    (hf : s.fault = false) : accepts i s = i.rxValid := by
  simp [accepts, hr, he, hf]

/-- Where none of the branches 1 to 4 applies, the byte is accepted. -/
theorem accepts_of_no_other_branch {i : In} {s : State} (hr : ¬i.rst = true)
    (hf : ¬s.fault = true) (he : ¬i.rxErr = true) (hv : ¬i.rxValid = false) :
    accepts i s = true := by
  simp [accepts, hr, hf, he, hv]

theorem accepts_byte (b : Byte) {s : State} (hf : s.fault = false) :
    accepts (In.byte b) s = true :=
  accepts_eq_rxValid rfl rfl hf

/-- The placed inputs belong to the environment: no branch touches them (log entry 1). -/
theorem cycle_inputs {i : In} {s t : State} (h : cycle i s = .next t) : t.inputs = s.inputs := by
  rcases cycle_cases i s t h with
    ⟨-, rfl⟩ | ⟨-, -, rfl⟩ | ⟨-, -, -, rfl⟩ | ⟨-, -, -, -, rfl⟩ | ⟨-, -, rfl⟩ |
      ⟨-, -, -, rfl⟩ | ⟨-, -, -, rfl⟩ <;> simp

/-! ### Where the status-byte step leads -/

section
variable {p : A0Len} {b : Byte} {s : State}

theorem phaseOf_statusByteStep_whole (h : dlen p b = 0) : phaseOf (statusByteStep p b s) = .s :=
  phaseOf_of_rem_zero _ h

theorem delivered_statusByteStep_whole (h : dlen p b = 0) :
    delivered (statusByteStep p b s) = some ⟨b, 0x00, 0x00, 0⟩ := by
  rw [delivered_of_valid _ (by simp [h, validAfterStatus])]
  simp [h]

theorem phaseOf_statusByteStep_open (h : dlen p b ≠ 0) : phaseOf (statusByteStep p b s) = .d1 :=
  phaseOf_of_rem_len _ h rfl

theorem delivered_statusByteStep_open (h : dlen p b ≠ 0) :
    delivered (statusByteStep p b s) = none :=
  delivered_of_not_valid _ (beq_false_of_ne h)

end

/-! ### Where the data-byte step leads -/

section
variable {p : A0Len} {d : Byte} {s : State}

/-- The last data byte closes the message, in whichever slot it goes. -/
theorem phaseOf_dataByteStep_last (a : Slot) (hr : s.rem = 1) :
    phaseOf (dataByteStep a d s) = .s :=
  phaseOf_of_rem_zero _ (by simp [hr])

theorem delivered_dataByteStep_last (a : Slot) (hr : s.rem = 1) :
    delivered (dataByteStep a d s) =
      some ⟨(dataByteStep a d s).status, (dataByteStep a d s).data1,
        (dataByteStep a d s).data2, s.len⟩ := by
  rw [delivered_of_valid _ (by simp [hr, validAfterData]), dataByteStep_len]

/-- A first data byte that is the last one too leaves the filler in slot 2. -/
theorem delivered_data1_of_one (h : FramerInvWith p s) (hl : s.len = 1) (hr : s.rem = 1) :
    delivered (dataByteStep .data1 d s) = some ⟨s.status, d, 0x00, 1⟩ := by
  have hd2 : s.data2 = 0x00 := h.2.2.2.2.2 (by simp [hl, hr])
  simp [delivered_dataByteStep_last .data1 hr, hl, hd2]

theorem delivered_data2_of_two (hl : s.len = 2) (hr : s.rem = 1) :
    delivered (dataByteStep .data2 d s) = some ⟨s.status, s.data1, d, 2⟩ := by
  simp [delivered_dataByteStep_last .data2 hr, hl]

theorem phaseOf_data1_of_two (hl : s.len = 2) (hr : s.rem = 2) :
    phaseOf (dataByteStep .data1 d s) = .d2 :=
  phaseOf_of_rem_ne_len _ (by simp [hr]) (by simp [hl, hr])

theorem delivered_data1_of_two (hr : s.rem = 2) : delivered (dataByteStep .data1 d s) = none :=
  delivered_of_not_valid _ (by simp [hr, validAfterData])

end

end Sys2Proof.Machine
end

section
/-! The step against `frames` (R69, R70). The bytes of the open message are read off the state
(`collected`), and every cycle without `rst` and `rx_err` keeps this relation: `frames` of the bytes
collected and still to come is what the cycle delivers, then `frames` of the bytes collected after
it and still to come (`Yields`). Runs and folds compose it. -/

namespace Sys2Proof.Machine

/-- The bytes of the open message accepted so far, from the registers that hold them (R32). -/
def collected (s : State) : List Byte :=
  match phaseOf s with
  | .s => []
  | .d1 => [s.status]
  | .d2 => [s.status, s.data1]

/-- Running, and with the invariants of R21 while a message is open; at a boundary the buffer may
hold any residue. -/
abbrev Tracks (p : A0Len) (s : State) : Prop :=
  s.fault = false ∧ (s.rem ≠ 0 → FramerInvWith p s)

/-- After the collected bytes `u`, the bytes `bs` complete the messages `ms` and leave `v`
collected, whatever comes later. -/
def Yields (p : A0Len) (u bs v : List Byte) (ms : List Message) : Prop :=
  ∀ r, frames p (u ++ bs ++ r) = ms ++ frames p (v ++ r) ∧
    outstanding p (u ++ bs ++ r) = outstanding p (v ++ r)

/-! ### `Yields` -/

/-- Bytes that complete nothing are collected. -/
theorem Yields.collect (p : A0Len) (u bs : List Byte) : Yields p u bs (u ++ bs) [] :=
  fun _ => ⟨rfl, rfl⟩

theorem Yields.nil (p : A0Len) (u : List Byte) : Yields p u [] u [] := by
  simpa using Yields.collect p u []

theorem Yields.trans {p : A0Len} {u v w bs cs : List Byte} {ms ns : List Message}
    (h : Yields p u bs v ms) (h' : Yields p v cs w ns) : Yields p u (bs ++ cs) w (ms ++ ns) := by
  intro r
  obtain ⟨hf, ho⟩ := h (cs ++ r)
  obtain ⟨hf', ho'⟩ := h' r
  simp only [List.append_assoc] at hf ho hf' ho' ⊢
  exact ⟨by rw [hf, hf'], by rw [ho, ho']⟩

/-! ### The bytes collected -/

theorem collected_of_phase_s {s : State} (h : phaseOf s = .s) : collected s = [] := by
  simp [collected, h]

theorem collected_of_phase_d1 {s : State} (h : phaseOf s = .d1) : collected s = [s.status] := by
  simp [collected, h]

theorem collected_of_phase_d2 {s : State} (h : phaseOf s = .d2) :
    collected s = [s.status, s.data1] := by
  simp [collected, h]

theorem tracks_of_atBoundary (p : A0Len) {s : State} (h : AtBoundary s) : Tracks p s :=
  ⟨h.1, fun hr => absurd h.2 hr⟩

theorem collected_of_atBoundary {s : State} (h : AtBoundary s) : collected s = [] :=
  collected_of_phase_s (phaseOf_of_rem_zero s h.2)

theorem outstanding_of_incomplete (p : A0Len) (b : Byte) (r : List Byte)
    (h : r.length < (dlen p b).toNat) :
    outstanding p (b :: r) = (dlen p b).toNat - r.length := by
  rcases dlen_cases p b with hd | hd | hd <;> simp only [hd] at h
  · simp at h
  · match r with
    | [] => simp [outstanding, hd]
    | _ :: _ => simp at h
  · match r with
    | [] => simp [outstanding, hd]
    | [_] => simp [outstanding, hd]
    | _ :: _ :: _ => simp at h

/-- The bytes collected are no message yet, and `REM` is what they lack. -/
theorem frames_collected {p : A0Len} {s : State} (h : Tracks p s) :
    frames p (collected s) = [] ∧ outstanding p (collected s) = s.rem.toNat := by
  obtain ⟨-, hinv⟩ := h
  cases hp : phaseOf s with
  | s =>
    have hr := (phaseOf_eq_s_iff s).1 hp
    simp [collected_of_phase_s hp, hr]
  | d1 =>
    obtain ⟨hr, hl⟩ := (phaseOf_eq_d1_iff s).1 hp
    have hd : dlen p s.status = s.rem := hl ▸ (hinv hr).2.1.symm
    have hlt : ([] : List Byte).length < (dlen p s.status).toNat := by
      rw [hd]
      exact Nat.pos_of_ne_zero fun h0 => hr (BitVec.eq_of_toNat_eq h0)
    rw [collected_of_phase_d1 hp]
    refine ⟨frames_of_incomplete p _ _ hlt, ?_⟩
    rw [outstanding_of_incomplete p _ _ hlt, hd]
    rfl
  | d2 =>
    obtain ⟨hr, hl⟩ := (phaseOf_eq_d2_iff s).1 hp
    obtain ⟨h1, h2⟩ := counts_of_rem_ne_len (hinv hr) hr hl
    have hd : dlen p s.status = 2 := h1 ▸ (hinv hr).2.1.symm
    have hlt : [s.data1].length < (dlen p s.status).toNat := by simp [hd]
    rw [collected_of_phase_d2 hp]
    refine ⟨frames_of_incomplete p _ _ hlt, ?_⟩
    rw [outstanding_of_incomplete p _ _ hlt, hd, h2]
    rfl

theorem Yields.frames_eq {p : A0Len} {u bs : List Byte} {t : State} {ms : List Message}
    (h : Yields p u bs (collected t) ms) (ht : Tracks p t) :
    frames p (u ++ bs) = ms ∧ outstanding p (u ++ bs) = t.rem.toNat := by
  obtain ⟨hf, ho⟩ := frames_collected ht
  simpa [hf, ho] using h []

/-! ### One cycle -/

theorem statusByteStep_yields (p : A0Len) (b : Byte) {s : State} (hr : s.rem = 0) :
    Yields p (collected s) [b] (collected (statusByteStep p b s))
      (delivered (statusByteStep p b s)).toList := by
  rw [collected_of_phase_s (phaseOf_of_rem_zero s hr)]
  by_cases h : dlen p b = 0
  · rw [collected_of_phase_s (phaseOf_statusByteStep_whole h), delivered_statusByteStep_whole h]
    exact fun r => ⟨frames_of_zero p b r h, outstanding_of_zero p b r h⟩
  · rw [collected_of_phase_d1 (phaseOf_statusByteStep_open h), delivered_statusByteStep_open h]
    exact Yields.collect p [] [b]

theorem data1_yields {p : A0Len} (d : Byte) {s : State} (h : FramerInvWith p s) (hr : s.rem ≠ 0)
    (hl : s.rem = s.len) :
    Yields p (collected s) [d] (collected (dataByteStep .data1 d s))
      (delivered (dataByteStep .data1 d s)).toList := by
  rw [collected_of_phase_d1 (phaseOf_of_rem_len s hr hl)]
  have hd : s.len = dlen p s.status := h.2.1
  rcases openCounts_of_framerInvWith h hr with ⟨h1, h2⟩ | ⟨h1, h2⟩ | ⟨h1, h2⟩
  · rw [collected_of_phase_s (phaseOf_dataByteStep_last .data1 h2), delivered_data1_of_one h h1 h2]
    have hd1 : dlen p s.status = 1 := hd ▸ h1
    exact fun r => ⟨frames_of_one p _ d r hd1, outstanding_of_one p _ d r hd1⟩
  · rw [collected_of_phase_d2 (phaseOf_data1_of_two h1 h2), delivered_data1_of_two h2]
    simpa using Yields.collect p [s.status] [d]
  · simp [h1, h2] at hl

theorem data2_yields {p : A0Len} (d : Byte) {s : State} (h : FramerInvWith p s) (hr : s.rem ≠ 0)
    (hl : s.rem ≠ s.len) :
    Yields p (collected s) [d] (collected (dataByteStep .data2 d s))
      (delivered (dataByteStep .data2 d s)).toList := by
  obtain ⟨h1, h2⟩ := counts_of_rem_ne_len h hr hl
  have hd2 : dlen p s.status = 2 := h1 ▸ h.2.1.symm
  rw [collected_of_phase_d2 (phaseOf_of_rem_ne_len s hr hl),
    collected_of_phase_s (phaseOf_dataByteStep_last .data2 h2), delivered_data2_of_two h1 h2]
  exact fun r => ⟨frames_of_two p _ _ d r hd2, outstanding_of_two p _ _ d r hd2⟩

/-- The commuting diagram: a cycle without `rst` and `rx_err` keeps the relation, and its delivery
is what `frames` makes of the byte presented, if there is one. -/
theorem cycleWith_yields {p : A0Len} {i : In} {s t : State} (hs : Tracks p s)
    (hi : i.rst = false ∧ i.rxErr = false) (h : cycleWith p i s = .next t) :
    Tracks p t ∧ Yields p (collected s) (presented [i]) (collected t) (delivered t).toList := by
  obtain ⟨hf, hinv⟩ := hs
  obtain ⟨hrst, herr⟩ := hi
  have byte (ha : accepts i s = true) : presented [i] = [i.rxData] := by
    simp [presented_cons, ((accepts_iff i s).1 ha).2.2.2]
  rcases cycleWith_cases p i s t h with
    ⟨h1, -⟩ | ⟨-, hf1, -⟩ | ⟨-, -, he, -⟩ | ⟨-, -, -, hv, rfl⟩ | ⟨ha, hr, rfl⟩ |
      ⟨ha, hr, hl, rfl⟩ | ⟨ha, hr, hl, rfl⟩
  · simp [hrst] at h1
  · simp [hf] at hf1
  · simp [herr] at he
  · have hp : presented [i] = [] := by simp [presented_cons, hv]
    rw [hp]
    exact ⟨⟨hf, fun hr => framerInvWith_clear (hinv hr) s.fault⟩, Yields.nil p _⟩
  · rw [byte ha]
    exact ⟨⟨hf, fun _ => statusByteStep_framerInvWith p _ hf⟩, statusByteStep_yields p _ hr⟩
  · rw [byte ha]
    exact ⟨⟨hf, fun _ => dataByteStep_data1_framerInvWith _ (hinv hr) hf hr hl⟩,
      data1_yields _ (hinv hr) hr hl⟩
  · rw [byte ha]
    exact ⟨⟨hf, fun _ => dataByteStep_data2_framerInvWith _ (hinv hr) hf hr hl⟩,
      data2_yields _ (hinv hr) hr hl⟩

/-! ### Folding `accept` -/

theorem acceptAllWith_eq_frames {p : A0Len} {s : State} (hs : Tracks p s) (bs : List Byte) :
    acceptAllWith p s bs = frames p (collected s ++ bs) := by
  induction bs generalizing s with
  | nil => simp [(frames_collected hs).1]
  | cons b r ih =>
    obtain ⟨t, ht⟩ := cycleWith_answers_next p (In.byte b) s
    obtain ⟨hinv, hy⟩ := cycleWith_yields hs ⟨rfl, rfl⟩ ht
    have hb : frames p (collected s ++ b :: r) =
        (delivered t).toList ++ frames p (collected t ++ r) := by
      simpa [presented, In.byte] using (hy r).1
    rw [acceptAllWith_cons p s t b r ht, ih hinv, hb]

/-- Settles O42, the case of this hardware from a boundary, where nothing is collected. -/
theorem foldingAcceptGivesFrames : Obligations.FoldingAcceptGivesFrames := by
  intro s bs hb
  rw [← acceptAllWith_pA0Len, acceptAllWith_eq_frames (tracks_of_atBoundary _ hb) bs,
    collected_of_atBoundary hb, List.nil_append]

/-! ### Runs over a placed trace -/

theorem step_of_inputs {i : In} {is : List In} {s t : State} (hs : s.inputs = i :: is)
    (h : step s = .next t) : cycle i { s with inputs := is } = .next t ∧ t.inputs = is := by
  rw [step, nextInput_cons s i is hs, popInput_cons s i is hs] at h
  exact ⟨h, cycle_inputs h⟩

/-- `cycleWith_yields` for a step on a placed input. -/
theorem step_yields {i : In} {is : List In} {s t : State} (hs : Tracks Config.pA0Len s)
    (hin : s.inputs = i :: is) (hi : i.rst = false ∧ i.rxErr = false) (h : step s = .next t) :
    Tracks Config.pA0Len t ∧
      Yields Config.pA0Len (collected s) (presented [i]) (collected t) (delivered t).toList := by
  have hc : cycleWith Config.pA0Len i { s with inputs := is } = .next t :=
    cycleWith_pA0Len ▸ (step_of_inputs hin h).1
  exact cycleWith_yields (s := { s with inputs := is }) hs hi hc

/-- A trace without `rst` and `rx_err` runs to its end, and its deliveries are what its bytes
complete. -/
theorem run_yields {is rest : List In} {s : State} (hs : Tracks Config.pA0Len s)
    (hin : s.inputs = is ++ rest) (hi : ∀ i ∈ is, i.rst = false ∧ i.rxErr = false) :
    ∃ t : State, Host.Core.run Sys2Proof.core is.length s = .next t ∧ t.inputs = rest ∧
      Tracks Config.pA0Len t ∧
      Yields Config.pA0Len (collected s) (presented is) (collected t)
        ((deliveries is.length s).filterMap id) := by
  induction is generalizing s with
  | nil => exact ⟨s, rfl, hin, hs, Yields.nil _ _⟩
  | cons i is ih =>
    obtain ⟨t, ht⟩ := step_answers_next s
    obtain ⟨hi0, his⟩ := List.forall_mem_cons.1 hi
    obtain ⟨htr, hy⟩ := step_yields hs hin hi0 ht
    obtain ⟨u, hrun, hrest, hu, hy'⟩ := ih htr (step_of_inputs hin ht).2 his
    refine ⟨u, ?_, hrest, hu, ?_⟩
    · rw [List.length_cons, run_succ _ s t ht, hrun]
    · have hd : (deliveries (i :: is).length s).filterMap id =
          (delivered t).toList ++ (deliveries is.length t).filterMap id := by
        rw [List.length_cons, deliveries_succ _ s t ht]
        cases delivered t <;> rfl
      rw [hd, ← List.singleton_append, presented_append]
      exact hy.trans hy'

/-- The delivery of the cycle after a run of `k` steps stands at index `k`. -/
theorem getElem_deliveries {k : Nat} (m : Nat) {s t u : State}
    (hrun : Host.Core.run Sys2Proof.core k s = .next t) (h : step t = .next u) :
    (deliveries (k + (m + 1)) s)[k]? = some (delivered u) := by
  induction k generalizing s with
  | zero =>
    cases hrun
    rw [Nat.zero_add, deliveries_succ m t u h, List.getElem?_cons_zero]
  | succ k ih =>
    obtain ⟨v, hv⟩ := step_answers_next s
    rw [run_succ k s v hv] at hrun
    rw [Nat.add_right_comm, deliveries_succ _ s v hv, List.getElem?_cons_succ, ih hrun]

/-- Settles O41: up to any cycle and to the end of the trace the run yields the messages of the
bytes, and each cycle the message of its own byte. -/
theorem stepsDeliverTheFramesOfTheBytes : Obligations.StepsDeliverTheFramesOfTheBytes := by
  intro s is hb hi
  have hs : Tracks Config.pA0Len s := tracks_of_atBoundary _ hb
  have hc (js : List In) : collected (place js s) = [] := collected_of_atBoundary hb
  refine ⟨fun pre post i his => ?_, ?_⟩
  · subst his
    have hpre : ∀ j ∈ pre, j.rst = false ∧ j.rxErr = false :=
      fun j hj => hi j (List.mem_append_left _ hj)
    have hii : i.rst = false ∧ i.rxErr = false := hi i (by simp)
    obtain ⟨t, hrun, hin, ht, hy⟩ :=
      run_yields (is := pre) (rest := i :: (post ++ s.inputs)) (s := place (pre ++ i :: post) s) hs
        (by simp) hpre
    obtain ⟨u, hu⟩ := step_answers_next t
    obtain ⟨hut, hy'⟩ := step_yields ht hin hii hu
    rw [hc] at hy
    refine ⟨⟨t, hrun, nextInput_cons t _ _ hin, accepts_eq_rxValid hii.1 hii.2 ht.1⟩,
      delivered u, ?_, ?_⟩
    · rw [List.length_append, List.length_cons, getElem_deliveries post.length hrun hu]
    · have h0 := (hy.frames_eq ht).1
      have h1 := ((hy.trans hy').frames_eq hut).1
      rw [List.nil_append] at h0 h1
      rw [presented_append, h1, h0]
  · obtain ⟨t, hrun, -, ht, hy⟩ :=
      run_yields (is := is) (rest := s.inputs) (s := place is s) hs rfl hi
    rw [hc] at hy
    obtain ⟨hf, ho⟩ := hy.frames_eq ht
    exact ⟨hf.symm, t, hrun, ht.1, ho.symm⟩

end Sys2Proof.Machine
end

section
/-! The dispatch and the branches of the step: what each reads (R63), idle cycles (R61), the phase
transitions (R67), and the machine with the parameter as an argument (R60, R64). -/

namespace Sys2Proof.Machine

/-! ### What a branch reads -/

theorem resetRegisters_congr {s s' : State} (hi : s.inputs = s'.inputs) (hd : s.drawn = s'.drawn) :
    resetRegisters s = resetRegisters s' := by
  simp [resetRegisters, hi, hd]

/-- The message buffer of a data-byte step, slot by slot, whatever it held before. -/
theorem cycle_data_with_slots {i : In} {s t : State} (st d e : Byte) (ha : accepts i s = true)
    (hr : s.rem ≠ 0) (h : cycle i s = .next t) :
    cycle i { s with status := st, data1 := d, data2 := e } =
      .next { t with status := st
                     data1 := if s.rem = s.len then t.data1 else d
                     data2 := if s.rem = s.len then e else t.data2 } := by
  by_cases hl : s.rem = s.len
  · rw [cycle_data1 i s ha hr hl] at h
    cases h
    rw [cycle_data1 i { s with status := st, data1 := d, data2 := e } ha hr hl, if_pos hl,
      if_pos hl]
    rfl
  · rw [cycle_data2 i s ha hr hl] at h
    cases h
    rw [cycle_data2 i { s with status := st, data1 := d, data2 := e } ha hr hl, if_neg hl,
      if_neg hl]
    rfl

/-- Two data bytes in one state lead to next states that differ in the slot written only. -/
theorem cycle_data_with_byte {s t t' : State} {b c : Byte} (hf : s.fault = false) (hr : s.rem ≠ 0)
    (h : cycle (In.byte b) s = .next t) (h' : cycle (In.byte c) s = .next t') :
    t' = { t with data1 := if s.rem = s.len then c else s.data1,
                  data2 := if s.rem = s.len then s.data2 else c } := by
  by_cases hl : s.rem = s.len
  · rw [cycle_data1 _ s (accepts_byte _ hf) hr hl] at h h'
    cases h
    cases h'
    rw [if_pos hl, if_pos hl]
    rfl
  · rw [cycle_data2 _ s (accepts_byte _ hf) hr hl] at h h'
    cases h
    cases h'
    rw [if_neg hl, if_neg hl]
    rfl

/-- Settles O9, branch by branch in the order of its clauses. -/
theorem branchesReadOnlyWhatTheyShould : Obligations.BranchesReadOnlyWhatTheyShould := by
  refine ⟨?reset, ?faulted, ?entry, ?idle, ?status, ?held, ?slots, ?byte,
    fun s i v => cycle_ignores_msgValid i s v⟩
  case reset =>
    intro s s' i j hin hdr hi hj
    rw [cycle_rst i s hi, cycle_rst j s' hj, resetRegisters_congr hin hdr]
  case faulted =>
    intro s i j hf hi hj
    rw [cycle_faulted i s hi hf, cycle_faulted j s hj hf]
  case entry =>
    intro s i j hf hi hj hei hej
    rw [cycle_err i s hi hf hei, cycle_err j s hj hf hej]
  case idle =>
    intro s i j hf hi hj hei hej hvi hvj
    rw [cycle_idle i s hi hf hei hvi, cycle_idle j s hj hf hej hvj]
  case status =>
    intro s i st d e l ha hr
    exact (cycle_status i s ha hr).trans
      (cycle_status i { s with status := st, data1 := d, data2 := e, len := l } ha hr).symm
  case held =>
    intro s t i st d e l m hr ha h
    rw [cycle_of_not_accepted hr ha] at h
    cases h
    exact cycle_of_not_accepted hr ha
  case slots => exact fun s t i st d e ha hr h => cycle_data_with_slots st d e ha hr h
  case byte => exact fun s t t' b c hf hr h h' => cycle_data_with_byte hf hr h h'

/-! ### Idle cycles -/

/-- Settles O12, by induction on the idle cycles: after the first, `MSG_VALID` is 0 and stays so. -/
theorem idleCyclesOnlyClearMsgValid : Obligations.IdleCyclesOnlyClearMsgValid := by
  intro s ds hf
  induction ds generalizing s with
  | nil => rfl
  | cons d ds ih =>
    have hstep : step (place ((d :: ds).map In.idle) s) =
        .next (place (ds.map In.idle) (idleCycle s)) :=
      cycle_idle (In.idle d) _ rfl hf rfl rfl
    rw [List.length_cons, run_succ _ _ _ hstep, ih (idleCycle s) hf]
    simp [idleCycle]

/-! ### Phase transitions -/

/-- A byte at a message boundary (R67, rows from phase S). -/
theorem accept_of_atBoundary {s : State} (b : Byte) (h : AtBoundary s) :
    accept s b =
      (statusByteStep Config.pA0Len b s, delivered (statusByteStep Config.pA0Len b s)) :=
  accept_eq s _ b (cycle_status _ s (accepts_byte b h.1) h.2)

theorem accept_of_rem_len {s : State} (d : Byte) (hf : s.fault = false) (hr : s.rem ≠ 0)
    (hl : s.rem = s.len) :
    accept s d = (dataByteStep .data1 d s, delivered (dataByteStep .data1 d s)) :=
  accept_eq s _ d (cycle_data1 _ s (accepts_byte d hf) hr hl)

theorem accept_of_rem_ne_len {s : State} (d : Byte) (hf : s.fault = false) (hr : s.rem ≠ 0)
    (hl : s.rem ≠ s.len) :
    accept s d = (dataByteStep .data2 d s, delivered (dataByteStep .data2 d s)) :=
  accept_eq s _ d (cycle_data2 _ s (accepts_byte d hf) hr hl)

theorem phaseOf_of_step_rst {s t : State} (h : step s = .next t) (hr : (nextInput s).rst = true) :
    phaseOf t = .s := by
  rw [step, cycle_rst _ _ hr] at h
  cases h
  rfl

theorem phaseOf_of_step_not_accepted {s t : State} (h : step s = .next t)
    (hr : (nextInput s).rst = false) (ha : accepts (nextInput s) s = false) :
    phaseOf t = phaseOf s := by
  have ha' : accepts (nextInput s) (popInput s) = false := by simpa [accepts] using ha
  rw [step, cycle_of_not_accepted hr ha'] at h
  cases h
  exact phaseOf_popInput s

/-- Settles O35: the status byte by its count, the data byte by the phase and the counts, the rest
by the branch that applies. -/
theorem phaseTransitionsFollowTheTable : Obligations.PhaseTransitionsFollowTheTable := by
  have opened {b : Byte} {s : State} {n : Count} (h : dlen Config.pA0Len b = n) (hn : n ≠ 0) :
      let t := statusByteStep Config.pA0Len b s
      phaseOf t = .d1 ∧ t.len = n ∧ t.rem = n ∧ delivered t = none :=
    have h0 : dlen Config.pA0Len b ≠ 0 := h ▸ hn
    ⟨phaseOf_statusByteStep_open h0, h, h, delivered_statusByteStep_open h0⟩
  refine ⟨fun s b hb => ⟨_, accept_of_atBoundary b hb, fun h => ?_, fun h => ?_, fun h => ?_⟩,
    fun s d hinv hf hp => ?_,
    fun s t h => ⟨phaseOf_of_step_rst h, phaseOf_of_step_not_accepted h⟩⟩
  · exact ⟨phaseOf_statusByteStep_whole h, delivered_statusByteStep_whole h⟩
  · exact opened h (by decide)
  · exact opened h (by decide)
  · have hr : s.rem ≠ 0 := fun h => hp (phaseOf_of_rem_zero s h)
    by_cases hl : s.rem = s.len
    · refine ⟨_, accept_of_rem_len d hf hr hl, ?_, ?_, ?_⟩
      · rintro ⟨h1, h2⟩
        exact ⟨phaseOf_dataByteStep_last _ h2, h1, by simp [h2], delivered_data1_of_one hinv h1 h2⟩
      · rintro ⟨h1, h2⟩
        exact ⟨phaseOf_data1_of_two h1 h2, h1, by simp [h2], delivered_data1_of_two h2⟩
      · rintro ⟨h1, h2⟩
        simp [h1, h2] at hl
    · obtain ⟨h1, h2⟩ := counts_of_rem_ne_len hinv hr hl
      refine ⟨_, accept_of_rem_ne_len d hf hr hl, ?_, ?_, fun _ => ?_⟩
      · simp [h1]
      · simp [h2]
      · exact ⟨phaseOf_dataByteStep_last _ h2, h1, by simp [h2], delivered_data2_of_two h1 h2⟩

/-! ### The parameter -/

/-- Settles O45: the status-byte step of the row's byte, written out. -/
theorem statusRowsAreTheStatusByteStep : Obligations.StatusRowsAreTheStatusByteStep :=
  fun p i s hw hp _ => execWith_of_statusRow p i s hw hp

/-- Taking the input of a cycle changes the model's own two fields only. -/
theorem popInput_eq (s : State) :
    ∃ (is : List In) (n : Nat), popInput s = { s with inputs := is, drawn := n } := by
  unfold popInput
  split
  · exact ⟨s.inputs, s.drawn + 1, rfl⟩
  · exact ⟨_, s.drawn, rfl⟩

/-- Settles O44: each branch of the step against the branch of R60 with the same condition. -/
theorem stepWithEitherParameterIsTheFirstBranch :
    Obligations.StepWithEitherParameterIsTheFirstBranch := by
  refine ⟨fun p s => ?_, congrFun stepWith_pA0Len, fun i => congrFun (congrFun execWith_pA0Len i)⟩
  obtain ⟨is, n, hpop⟩ := popInput_eq s
  rw [stepWith, hpop]
  dsimp only
  split_ifs with hrst hf herr hv hr hl
  · exact ⟨_, cycleBy_rst _ _ _ hrst, rfl⟩
  · exact ⟨_, cycleBy_faulted _ _ _ (eq_false_of_ne_true hrst) hf, rfl⟩
  · exact ⟨_, cycleBy_err _ _ _ (eq_false_of_ne_true hrst) (eq_false_of_ne_true hf) herr, rfl⟩
  · exact ⟨_, cycleBy_idle _ _ _ (eq_false_of_ne_true hrst) (eq_false_of_ne_true hf)
      (eq_false_of_ne_true herr) hv, rfl⟩
  · exact ⟨_, cycleWith_status p _ _ (accepts_of_no_other_branch hrst hf herr hv) hr, rfl⟩
  · exact ⟨_, cycleWith_data1 p _ _ (accepts_of_no_other_branch hrst hf herr hv) hr hl, rfl⟩
  · exact ⟨_, cycleWith_data2 p _ _ (accepts_of_no_other_branch hrst hf herr hv) hr hl, rfl⟩

end Sys2Proof.Machine
end

section
/-! What a status row opens (R64): its byte decodes back to it at a message boundary, the class of
the byte comes from its upper nibble (R50), and `exec` loads the count of that class. -/

namespace Sys2Proof.Machine

/-- At a message boundary the byte of a status row decodes to that row and its operand. -/
theorem decode_encode_of_statusRow {i : Instr} (hw : WellFormed i) (hp : i.row.phase = .s) :
    decode .s (encode i) = i := by
  cases i with
  | noteOff c | noteOn c | ctrlChg c | pitchBend c | progChg c | chanPres c | polyAt c =>
    revert c; decide
  | clock | actSense | unclF9 | unclFF => rfl
  | unclLow b | unclF0F7 b | unclFAFB b | unclFCFD b => revert b; decide
  | data1 d | data2 d => cases hp

theorem highNibble_formatS (type chan : BitVec 4) :
    highNibble (formatS type chan) = formatS type 0 := by
  revert type chan
  decide

/-- The four types of R75 to R78, on every channel. -/
theorem classify_formatS_channelVoice2 (p : A0Len) {type : BitVec 4} (chan : BitVec 4)
    (h : type ∈ [0x8#4, 0x9#4, 0xB#4, 0xE#4]) :
    classify p (formatS type chan) = .channelVoice2 := by
  refine classify_channelVoice2 p ?_
  rw [highNibble_formatS]
  revert type
  decide

/-- `exec` of a status row whose byte requires `n` data bytes, register by register. -/
theorem exec_of_statusRow_dlen {i : Instr} {n : Count} (s : State) (hp : i.row.phase = .s)
    (hd : dlen Config.pA0Len (encode i) = n) :
    exec i s = .next { s with status := encode i, data1 := 0x00, data2 := 0x00, len := n, rem := n,
                              msgValid := validAfterStatus n } := by
  subst hd
  exact exec_of_statusRow i s hp

/-- From a message boundary, a byte that requires two data bytes and any two bytes after it. -/
theorem acceptAll_of_two {s : State} {b : Byte} (hb : AtBoundary s)
    (hd : dlen Config.pA0Len b = 2) (d e : Byte) : acceptAll s [b, d, e] = [⟨b, d, e, 2⟩] := by
  rw [foldingAcceptGivesFrames s [b, d, e] hb, frames_of_two _ b d e [] hd, frames_nil]

/-- Settles O20: each of the four pairs is a status row with the byte it encodes to, of class
ChannelVoice2, and the rest holds for every such row. -/
theorem channelVoice2RowsOpenATwoByteMessage :
    Obligations.ChannelVoice2RowsOpenATwoByteMessage := by
  rintro chan s hb ⟨i, b⟩ hr
  have hrow : WellFormed i ∧ i.row.phase = .s ∧ b = encode i ∧
      classify Config.pA0Len b = .channelVoice2 := by
    simp only [List.mem_cons, List.not_mem_nil, or_false, Prod.mk.injEq] at hr
    rcases hr with ⟨rfl, rfl⟩ | ⟨rfl, rfl⟩ | ⟨rfl, rfl⟩ | ⟨rfl, rfl⟩ <;>
      exact ⟨rfl, rfl, rfl, classify_formatS_channelVoice2 _ chan (by decide)⟩
  obtain ⟨hw, hp, rfl, hc⟩ := hrow
  have hd : dlen Config.pA0Len (encode i) = 2 := congrArg dbytes hc
  exact ⟨decode_encode_of_statusRow hw hp, rfl, rfl, hc, hd, exec_of_statusRow_dlen s hp hd,
    acceptAll_of_two hb hd⟩

end Sys2Proof.Machine
end

section
/-! Status rows of class ChannelVoice1 (R80, R81): one data byte completes the message. -/

namespace Sys2Proof.Machine

/-- The two types of R80 and R81, on every channel. -/
theorem classify_formatS_channelVoice1 (p : A0Len) {type : BitVec 4} (chan : BitVec 4)
    (h : type ∈ [0xC#4, 0xD#4]) : classify p (formatS type chan) = .channelVoice1 := by
  refine classify_channelVoice1 p ?_
  rw [highNibble_formatS]
  revert type
  decide

/-- From a message boundary, a byte that requires one data byte and any byte after it. -/
theorem acceptAll_of_one {s : State} {b : Byte} (hb : AtBoundary s)
    (hd : dlen Config.pA0Len b = 1) (d : Byte) : acceptAll s [b, d] = [⟨b, d, 0x00, 1⟩] := by
  rw [foldingAcceptGivesFrames s [b, d] hb, frames_of_one _ b d [] hd, frames_nil]

/-- Settles O21: both pairs are a status row with the byte it encodes to, of class ChannelVoice1,
and such a row opens a message that the next byte completes. -/
theorem channelVoice1RowsOpenAOneByteMessage :
    Obligations.ChannelVoice1RowsOpenAOneByteMessage := by
  rintro chan s hb ⟨i, b⟩ hr
  have hrow : WellFormed i ∧ i.row.phase = .s ∧ b = encode i ∧
      classify Config.pA0Len b = .channelVoice1 := by
    simp only [List.mem_cons, List.not_mem_nil, or_false, Prod.mk.injEq] at hr
    rcases hr with ⟨rfl, rfl⟩ | ⟨rfl, rfl⟩
    · exact ⟨rfl, rfl, rfl, classify_formatS_channelVoice1 _ chan (type := 0xC) (by decide)⟩
    · exact ⟨rfl, rfl, rfl, classify_formatS_channelVoice1 _ chan (type := 0xD) (by decide)⟩
  obtain ⟨hw, hp, rfl, hc⟩ := hrow
  have hd : dlen Config.pA0Len (encode i) = 1 := congrArg dbytes hc
  exact ⟨decode_encode_of_statusRow hw hp, rfl, rfl, hc, hd, exec_of_statusRow_dlen s hp hd,
    acceptAll_of_one hb hd⟩

end Sys2Proof.Machine
end

section
/-! Status rows of class SystemRealtime (R82, R83): a byte that requires no data byte is a message
by itself, and so is each of several in a row. -/

namespace Sys2Proof.Machine

/-- Bytes that require no data byte are framed one by one (R68). -/
theorem frames_of_all_zero (p : A0Len) {bs : List Byte} (h : ∀ b ∈ bs, dlen p b = 0) :
    frames p bs = bs.map fun b => ⟨b, 0x00, 0x00, 0⟩ := by
  induction bs with
  | nil => rfl
  | cons b bs ih =>
    rw [List.forall_mem_cons] at h
    rw [frames_of_zero p b bs h.1, ih h.2, List.map_cons]

/-- From a message boundary, any number of bytes that require no data byte. -/
theorem acceptAll_of_all_zero {s : State} {bs : List Byte} (hb : AtBoundary s)
    (h : ∀ b ∈ bs, dlen Config.pA0Len b = 0) :
    acceptAll s bs = bs.map fun b => ⟨b, 0x00, 0x00, 0⟩ := by
  rw [foldingAcceptGivesFrames s bs hb, frames_of_all_zero _ h]

/-- Settles O22: both pairs are a status row with the byte it encodes to, of class SystemRealtime,
and the rest holds for every such row. -/
theorem systemRealtimeRowsAreWholeMessages : Obligations.SystemRealtimeRowsAreWholeMessages := by
  rintro s hb ⟨i, b⟩ hr
  have hrow : WellFormed i ∧ i.row.phase = .s ∧ b = encode i ∧
      classify Config.pA0Len b = .systemRealtime := by
    simp only [List.mem_cons, List.not_mem_nil, or_false, Prod.mk.injEq] at hr
    rcases hr with ⟨rfl, rfl⟩ | ⟨rfl, rfl⟩
    · exact ⟨rfl, rfl, rfl, classify_realtime _ (.inl rfl)⟩
    · exact ⟨rfl, rfl, rfl, classify_realtime _ (.inr rfl)⟩
  obtain ⟨hw, hp, rfl, hc⟩ := hrow
  have hd : dlen Config.pA0Len (encode i) = 0 := congrArg dbytes hc
  exact ⟨decode_encode_of_statusRow hw hp, rfl, rfl, hc, hd, exec_of_statusRow_dlen s hp hd,
    acceptAll_of_all_zero hb (by simpa using hd), acceptAll_of_all_zero hb (by simpa using hd)⟩

end Sys2Proof.Machine
end

section
/-! The class column of the opcode map (R53) against the classifier (R50), and the unclassified rows
(R84 to R90) read from it. -/

namespace Sys2Proof.Machine

/-- In phase S the row a byte decodes to names the byte's class. -/
theorem decodeStatus_class (b : Byte) :
    (decodeStatus b).row.cls = some (classify Config.pA0Len b) := by
  revert b
  decide

theorem classify_encode_of_statusRow {i : Instr} {c : MsgClass} (hw : WellFormed i)
    (hp : i.row.phase = .s) (hc : i.row.cls = some c) : classify Config.pA0Len (encode i) = c := by
  have hi : decodeStatus (encode i) = i := decode_encode_of_statusRow hw hp
  have hcls := decodeStatus_class (encode i)
  rw [hi, hc] at hcls
  exact (Option.some.inj hcls).symm

/-- What a row of class Unclassified does at a message boundary (R84 to R90). -/
theorem unclassifiedRow_isWholeMessage {i : Instr} {s : State} (hw : WellFormed i)
    (hp : i.row.phase = .s) (hc : i.row.cls = some .unclassified) (hb : AtBoundary s) :
    decode .s (encode i) = i ∧ classify Config.pA0Len (encode i) = .unclassified ∧
      dlen Config.pA0Len (encode i) = 0 ∧
      exec i s = .next { s with status := encode i, data1 := 0x00, data2 := 0x00, len := 0, rem := 0,
                                msgValid := true } ∧
      acceptAll s [encode i] = [⟨encode i, 0x00, 0x00, 0⟩] := by
  have hcl := classify_encode_of_statusRow hw hp hc
  have hd : dlen Config.pA0Len (encode i) = 0 := congrArg dbytes hcl
  exact ⟨decode_encode_of_statusRow hw hp, hcl, hd, exec_of_statusRow_dlen s hp hd,
    acceptAll_of_all_zero hb (by simpa using hd)⟩

/-- Settles O23: each disjunct is a row of class Unclassified with a byte of its range. -/
theorem unclassifiedRowsArePassedThrough : Obligations.UnclassifiedRowsArePassedThrough := by
  intro b s hb i hi
  have hrow : WellFormed i ∧ i.row.phase = .s ∧ i.row.cls = some .unclassified ∧ b = encode i := by
    rcases hi with ⟨rfl, h⟩ | ⟨rfl, h⟩ | ⟨rfl, rfl⟩ | ⟨rfl, h⟩ | ⟨rfl, h⟩ | ⟨rfl, rfl⟩
    · exact ⟨beq_iff_eq.2 h, rfl, rfl, rfl⟩
    · exact ⟨beq_iff_eq.2 h, rfl, rfl, rfl⟩
    · exact ⟨rfl, rfl, rfl, rfl⟩
    · exact ⟨beq_iff_eq.2 h, rfl, rfl, rfl⟩
    · exact ⟨beq_iff_eq.2 h, rfl, rfl, rfl⟩
    · exact ⟨rfl, rfl, rfl, rfl⟩
  obtain ⟨hw, hp, hc, rfl⟩ := hrow
  exact unclassifiedRow_isWholeMessage hw hp hc hb

end Sys2Proof.Machine
end

section
/-! `POLY_AT` with either value of `P_A0_LEN` (R85): unclassified on this hardware, and with
`P_A0_LEN = 2` a row of class ChannelVoice2. -/

namespace Sys2Proof.Machine

/-- A byte below 0x80 at a message boundary requires no data byte (R84). -/
theorem dlen_of_low {d : Byte} (h : d &&& 0x80 = 0x00) : dlen Config.pA0Len d = 0 :=
  congrArg dbytes
    (classify_encode_of_statusRow (i := .unclLow d) (c := .unclassified) (beq_iff_eq.2 h) rfl rfl)

theorem classify_two_formatS_polyAt (chan : BitVec 4) :
    classify .two (formatS 0xA chan) = .channelVoice2 :=
  classify_polyAt .two (highNibble_formatS 0xA chan)

/-- `exec_of_statusRow_dlen` with either parameter. -/
theorem execWith_of_statusRow_dlen {p : A0Len} {i : Instr} {n : Count} (s : State)
    (hw : WellFormed i) (hp : i.row.phase = .s) (hd : dlen p (encode i) = n) :
    execWith p i s = .next { s with status := encode i, data1 := 0x00, data2 := 0x00, len := n,
                                    rem := n, msgValid := validAfterStatus n } := by
  subst hd
  exact execWith_of_statusRow p i s hw hp

/-- `acceptAll_of_two` with either parameter. -/
theorem acceptAllWith_of_two {p : A0Len} {s : State} {b : Byte} (hb : AtBoundary s)
    (hd : dlen p b = 2) (d e : Byte) : acceptAllWith p s [b, d, e] = [⟨b, d, e, 2⟩] := by
  rw [acceptAllWith_eq_frames (tracks_of_atBoundary p hb), collected_of_atBoundary hb,
    List.nil_append, frames_of_two p b d e [] hd, frames_nil]

/-- Settles O24: on this hardware `POLY_AT` is one of the unclassified rows; with `P_A0_LEN = 2` its
byte requires two data bytes. -/
theorem polyAtRowFollowsItsParameter : Obligations.PolyAtRowFollowsItsParameter := by
  intro chan s hb b
  obtain ⟨hdec, hcl, hd, hex, -⟩ :=
    unclassifiedRow_isWholeMessage (i := .polyAt chan) rfl rfl rfl hb
  have hcl2 := classify_two_formatS_polyAt chan
  have hd2 : dlen .two b = 2 := congrArg dbytes hcl2
  refine ⟨hdec, hcl, hd, hex, fun x y hx hy => ?_, hcl2, hd2,
    execWith_of_statusRow_dlen (i := .polyAt chan) s rfl rfl hd2, acceptAllWith_of_two hb hd2⟩
  refine acceptAll_of_all_zero hb ?_
  simpa using ⟨hd, dlen_of_low hx, dlen_of_low hy⟩

end Sys2Proof.Machine
end

section
/-! The two data rows in their phases (R92, R93): the data-byte step on slot 1 or slot 2, and around
it the idle cycle and the transport error, which leave the open message as it is. -/

namespace Sys2Proof.Machine

/-! ### The data-byte step in the terms of R65 -/

theorem dataByteStep_data1_eq (d : Byte) (s : State) :
    dataByteStep .data1 d s =
      { s with data1 := d, rem := s.rem - 1, msgValid := decide (s.rem = 1) } := rfl

theorem dataByteStep_data2_eq (d : Byte) (s : State) :
    dataByteStep .data2 d s =
      { s with data2 := d, rem := s.rem - 1, msgValid := decide (s.rem = 1) } := rfl

/-! ### Cycles of a running framer that take no byte -/

theorem cycle_inIdle (x : Byte) {s : State} (hf : s.fault = false) :
    cycle (In.idle x) s = .next { s with msgValid := false } :=
  cycle_idle (In.idle x) s rfl hf rfl rfl

/-- The error goes before the byte presented in the same cycle (R60, R110). -/
theorem cycle_inErrByte (b : Byte) {s : State} (hf : s.fault = false) :
    cycle (In.errByte b) s = .next { s with fault := true, msgValid := false } :=
  cycle_err (In.errByte b) s rfl hf rfl

/-! ### The two statements -/

/-- Settles O25: in phase D1 the two lengths fix `REM`, since it equals `LEN`; what is delivered and
the phase after the step follow from the counts. -/
theorem data1StoresTheFirstDataByte : Obligations.Data1StoresTheFirstDataByte := by
  intro d s hf hr hl
  rw [phaseOf_of_rem_len s hr hl, exec_data1, ← dataByteStep_data1_eq]
  refine ⟨rfl, rfl, fun h h1 => ?lengthOne, fun _ h2 => ?lengthTwo,
    fun x => cycle_inIdle x hf, cycle_inErrByte d hf⟩
  case lengthOne =>
    have hr1 : s.rem = 1 := hl.trans h1
    exact ⟨delivered_data1_of_one h h1 hr1, phaseOf_dataByteStep_last .data1 hr1⟩
  case lengthTwo =>
    have hr2 : s.rem = 2 := hl.trans h2
    exact ⟨delivered_data1_of_two hr2, phaseOf_data1_of_two h2 hr2⟩

/-- Settles O26: with the invariants, phase D2 is the one pair of counts `LEN = 2`, `REM = 1`, so the
byte is the message's last. -/
theorem data2StoresTheSecondDataByte : Obligations.Data2StoresTheSecondDataByte := by
  intro d s hf hr hl
  rw [phaseOf_of_rem_ne_len s hr hl, exec_data2, ← dataByteStep_data2_eq]
  refine ⟨rfl, rfl, fun h => ?complete, fun x => cycle_inIdle x hf, cycle_inErrByte d hf⟩
  case complete =>
    obtain ⟨h2, h1⟩ := counts_of_rem_ne_len h hr hl
    have hr0 : (dataByteStep .data2 d s).rem = 0 := by simp [h1]
    exact ⟨hr0, delivered_data2_of_two h2 h1, phaseOf_of_rem_zero _ hr0⟩

end Sys2Proof.Machine
end

section
/-! The transport fault: what a cycle makes of `FAULT` (R101, R105), and the faulted framer over any
number of cycles without `rst` (R103, R104). -/

namespace Sys2Proof.Machine

/-! ### The register `FAULT` -/

/-- Only `rst` clears `FAULT` and only `rx_err` sets it: the byte steps are reached with both at 0
and keep it. -/
theorem cycle_fault {i : In} {s t : State} (h : cycle i s = .next t) :
    t.fault = (!i.rst && (s.fault || i.rxErr)) := by
  have accepted (ha : accepts i s = true) : s.fault = (!i.rst && (s.fault || i.rxErr)) := by
    obtain ⟨hr, hf, he, -⟩ := (accepts_iff i s).1 ha
    simp [hr, hf, he]
  rcases cycle_cases i s t h with
    ⟨hr, rfl⟩ | ⟨hr, hf, rfl⟩ | ⟨hr, -, he, rfl⟩ | ⟨hr, -, he, -, rfl⟩ | ⟨ha, -, rfl⟩ |
      ⟨ha, -, -, rfl⟩ | ⟨ha, -, -, rfl⟩
  · simp [hr]
  · simp [hr, hf]
  · simp [hr, he]
  · simp [hr, he]
  · exact accepted ha
  · exact accepted ha
  · exact accepted ha

theorem step_fault {s t : State} (h : step s = .next t) :
    t.fault = (!(nextInput s).rst && (s.fault || (nextInput s).rxErr)) :=
  popInput_fault s ▸ cycle_fault h

/-- Settles O31: what a step makes of `FAULT`, with `FAULT = 0` before. -/
theorem faultIsRaisedByRxErrAlone : Obligations.FaultIsRaisedByRxErrAlone := by
  intro s t h hf
  simp [step_fault h, hf]

/-- Settles O33: what a step makes of `FAULT`, with `FAULT = 1` before; the branch that clears it is
the reset. -/
theorem faultIsLeftByResetAlone : Obligations.FaultIsLeftByResetAlone := by
  intro s t h hf
  have hiff : t.fault = false ↔ (nextInput s).rst = true := by simp [step_fault h, hf]
  refine ⟨hiff, fun ht => ?_⟩
  obtain rfl := Host.Outcome.next.inj ((cycle_rst _ (popInput s) (hiff.1 ht)).symm.trans h)
  exact ⟨rfl, rfl, rfl, rfl, rfl, rfl⟩

/-! ### Steps and runs without `rst` -/

theorem step_of_err {s : State} {i : In} {is : List In} (hin : s.inputs = i :: is)
    (hr : i.rst = false) (hf : s.fault = false) (he : i.rxErr = true) :
    step s = .next { s with fault := true, msgValid := false, inputs := is } := by
  rw [step, nextInput_cons s i is hin, popInput_cons s i is hin]
  exact cycle_err i _ hr hf he

theorem step_of_faulted {s : State} {i : In} {is : List In} (hin : s.inputs = i :: is)
    (hr : i.rst = false) (hf : s.fault = true) :
    step s = .next { s with msgValid := false, inputs := is } := by
  rw [step, nextInput_cons s i is hin, popInput_cons s i is hin]
  exact cycle_faulted i _ hr hf

/-- A faulted framer through a trace without `rst`: it consumes the inputs, clears `MSG_VALID` and
does nothing else. -/
theorem run_of_faulted {s : State} {is rest : List In} (hin : s.inputs = is ++ rest)
    (hf : s.fault = true) (hr : ∀ i ∈ is, i.rst = false) :
    Host.Core.run Sys2Proof.core is.length s =
      .next { s with msgValid := if is = [] then s.msgValid else false, inputs := rest } := by
  induction is generalizing s with
  | nil =>
    cases hin
    rfl
  | cons i is ih =>
    obtain ⟨hri, hris⟩ := List.forall_mem_cons.1 hr
    rw [List.length_cons, run_succ _ _ _ (step_of_faulted (is := is ++ rest) hin hri hf),
      ih (s := { s with msgValid := false, inputs := is ++ rest }) rfl hf hris]
    simp

theorem deliveries_of_faulted {s : State} {is rest : List In} (hin : s.inputs = is ++ rest)
    (hf : s.fault = true) (hr : ∀ i ∈ is, i.rst = false) :
    deliveries is.length s = List.replicate is.length none := by
  induction is generalizing s with
  | nil => rfl
  | cons i is ih =>
    obtain ⟨hri, hris⟩ := List.forall_mem_cons.1 hr
    rw [List.length_cons, deliveries_succ _ _ _ (step_of_faulted (is := is ++ rest) hin hri hf),
      ih (s := { s with msgValid := false, inputs := is ++ rest }) rfl hf hris,
      delivered_of_not_valid _ rfl, List.replicate_succ]

/-- Settles O32, from the run and the deliveries of a faulted framer. -/
theorem faultedFramerHoldsAndDropsBytes : Obligations.FaultedFramerHoldsAndDropsBytes :=
  fun s is hf hr =>
    ⟨run_of_faulted (s := place is s) rfl hf hr, deliveries_of_faulted (s := place is s) rfl hf hr⟩

/-! ### Fault entry -/

/-- Settles O30: the step enters the fault, and from there on the framer is a faulted one, over any
first `k` of the inputs that follow. -/
theorem faultEntryHoldsEverythingElse : Obligations.FaultEntryHoldsEverythingElse := by
  intro s i is hf hin hr he hris
  have hentry := step_of_err hin hr hf he
  refine ⟨hentry, fun k t hk hrun => ?held, ?silent⟩
  case held =>
    have htake := run_of_faulted
      (s := { s with fault := true, msgValid := false, inputs := is })
      (List.take_append_drop k is).symm rfl (fun j hj => hris j (List.mem_of_mem_take hj))
    rw [List.length_take_of_le hk, ← run_succ k s _ hentry, hrun] at htake
    cases htake
    rfl
  case silent =>
    rw [deliveries_succ _ _ _ hentry, delivered_of_not_valid _ rfl,
      deliveries_of_faulted (List.append_nil is).symm rfl hris, List.replicate_succ]

/-- Settles O34: the byte's own cycle leaves `FAULT` at 0, and the error's cycle is a fault entry
whether or not it presents a byte. -/
theorem faultIsPreciseWithRespectToMessages : Obligations.FaultIsPreciseWithRespectToMessages := by
  refine ⟨fun s t b i rest hin hr he hf h hv => ?_,
    fun s b rest hin hf => step_of_err hin rfl hf rfl⟩
  have htf : t.fault = false := by simp [step_fault h, nextInput_cons s _ _ hin, hf, In.byte]
  exact ⟨delivered_of_valid t hv, htf, step_of_err (step_of_inputs hin h).2 hr htf he⟩

end Sys2Proof.Machine
end

section
/-! The invariants of R21 as statements of their own, for this hardware and for either value of
`P_A0_LEN`. -/

namespace Sys2Proof.Machine

/-- Settles O3, from the lemma that the six invariants hold after each branch of a cycle. -/
theorem invariantKeptByEveryStep : Obligations.InvariantKeptByEveryStep :=
  fun _ _ => step_keeps_framerInv

/-- Settles O46, from the reset state and the step lemma with the parameter as an argument. -/
theorem invariantKeptByEveryStepWithEitherParameter :
    Obligations.InvariantKeptByEveryStepWithEitherParameter :=
  fun p => ⟨framerInvWith_reset p, fun _ _ => stepWith_keeps_framerInvWith⟩

/-- Settles O2: the reset state with the parameter of this hardware. -/
theorem invariantHoldsAtReset : Obligations.InvariantHoldsAtReset :=
  framerInvWith_reset Config.pA0Len

/-- Settles O37: the six invariants read at `MSG_VALID = 1`, where they give `REM = 0` and
`FAULT = 0`. -/
theorem deliveredMessageIsWholeAndZeroFilled :
    Obligations.DeliveredMessageIsWholeAndZeroFilled := by
  rintro s m ⟨⟨hl3, -⟩, hl, hvr, hfv, hd1, hd2⟩ hm
  have hv : s.msgValid = true := by
    by_contra h
    simp [delivered_of_not_valid s (eq_false_of_ne_true h)] at hm
  have hr : s.rem = 0 := hvr hv
  have hf : s.fault = false := eq_false_of_ne_true fun h => by simp [hfv h] at hv
  rw [delivered_of_valid s hv] at hm
  obtain rfl := Option.some.inj hm
  refine ⟨hv, rfl, rfl, rfl, rfl, hr, hf, hl, hl3, fun h0 => ?data1, fun h2 => ?data2⟩
  case data1 => exact hd1 (by simp [show s.len = 0 from h0])
  case data2 =>
    refine hd2 ?_
    rcases dlen_cases Config.pA0Len s.status with h | h | h
    · simp [hl, h]
    · simp [hl, h, hr]
    · exact absurd (hl.trans h) h2

end Sys2Proof.Machine
end

section
/-! Decoder and encoder as inverses of each other (R53, R54), and the cycle that runs what was
decoded (R47, R62). -/

namespace Sys2Proof.Machine

/-- Settles O14: the two data rows carry the whole byte, and the 15 status rows are told apart by
value. -/
theorem decodeOfEncodeIsTheInstruction : Obligations.DecodeOfEncodeIsTheInstruction := by
  intro i hw
  cases i with
  | data1 d | data2 d => rfl
  | _ => exact decode_encode_of_statusRow hw rfl

/-- Settles O15, from what every byte decodes to in every phase. -/
theorem encodeOfDecodeIsTheByte : Obligations.EncodeOfDecodeIsTheByte := by
  intro p b
  obtain ⟨hw, hp, he⟩ := decode_row p b
  exact ⟨he, hw, hp⟩

@[simp] theorem accepts_popInput (i : In) (s : State) :
    accepts i (popInput s) = accepts i s := by
  simp [accepts]

/-- Settles O8: the phase does not change while the input is taken. -/
theorem stepRunsTheDecodedInstruction : Obligations.StepRunsTheDecodedInstruction := by
  refine ⟨?_, fun s x rest h => ⟨nextInput_cons s x rest h, popInput_cons s x rest h⟩⟩
  rintro s _ ha rfl
  refine ⟨(decode_row _ _).1, ?_⟩
  rw [step, cycle_accepted _ _ ((accepts_popInput _ _).trans ha), phaseOf_popInput]

/-- Settles O13: the decoder evaluated at the eleven bytes, and in phases D1 and D2 at any byte. -/
theorem specBytesDecodeToTheirRows : Obligations.SpecBytesDecodeToTheirRows :=
  ⟨rfl, rfl, rfl, rfl, rfl, rfl, rfl, rfl, rfl, rfl, rfl, fun _ => ⟨rfl, rfl⟩⟩

end Sys2Proof.Machine
end

section
/-! The step as its first branch (R60, R110), and which registers it can change (R10). -/

namespace Sys2Proof.Machine

/-- Settles O7, branch by branch; taking the input leaves the seven registers alone. -/
theorem stepIsTheFirstBranchThatApplies : Obligations.StepIsTheFirstBranchThatApplies := by
  intro s
  obtain ⟨is, n, hpop⟩ := popInput_eq s
  rw [step, hpop]
  dsimp only
  split_ifs with hrst hf herr hv hr hl
  · exact cycle_rst _ _ hrst
  · exact cycle_faulted _ _ (eq_false_of_ne_true hrst) hf
  · exact cycle_err _ _ (eq_false_of_ne_true hrst) (eq_false_of_ne_true hf) herr
  · exact cycle_idle _ _ (eq_false_of_ne_true hrst) (eq_false_of_ne_true hf)
      (eq_false_of_ne_true herr) hv
  · exact cycle_status _ _ (accepts_of_no_other_branch hrst hf herr hv) hr
  · exact cycle_data1 _ _ (accepts_of_no_other_branch hrst hf herr hv) hr hl
  · exact cycle_data2 _ _ (accepts_of_no_other_branch hrst hf herr hv) hr hl

/-- Settles O11: each branch of the step against the registers it leaves as they are. -/
theorem registersAreWrittenOnlyByTheirSteps : Obligations.RegistersAreWrittenOnlyByTheirSteps := by
  intro s t h
  have hc := cycle_cases _ _ t h
  simp only [accepts_popInput, popInput_fault, popInput_rem, popInput_len] at hc
  rcases hc with
    ⟨hrst, rfl⟩ | ⟨-, -, rfl⟩ | ⟨hrst, hf, herr, rfl⟩ | ⟨-, -, -, -, rfl⟩ | ⟨ha, hr, rfl⟩ |
      ⟨ha, hr, hl, rfl⟩ | ⟨ha, hr, hl, rfl⟩
  · simp [hrst]
  · simp
  · simp [hrst, hf, herr]
  · simp
  · simp [ha, phaseOf_of_rem_zero s hr]
  · simp [ha, phaseOf_of_rem_len s hr hl]
  · simp [ha, phaseOf_of_rem_ne_len s hr hl]

end Sys2Proof.Machine
end

section
/-! The frames of the status rows and of the data rows (R64, R65), and the byte whole in the slot
the phase selects (R48, R54). -/

namespace Sys2Proof.Machine

/-- Both data rows, each in its phase, are the data-byte step on the slot selected (R65). -/
theorem exec_of_dataRow {i : Instr} {s : State} (hp : i.row.phase = phaseOf s)
    (hs : phaseOf s ≠ .s) :
    exec i s = .next (dataByteStep (slotOf s) (encode i) s) := by
  cases i with
  | data1 d | data2 d =>
    rw [slotOf, ← hp]
    rfl
  | _ => exact absurd hp.symm hs

/-- The slots after a data-byte step: the count and `MSG_VALID` are none of them. -/
theorem memRead_dataByteStep (a c : Slot) (d : Byte) (s : State) :
    memRead a (dataByteStep c d s) = memRead a (memWrite c d s) := by
  cases a <;> rfl

/-- Settles O27: each of the 15 rows is the status-byte step, which reads none of the registers it
writes. -/
theorem statusRowsWriteAllThreeSlotsAndKeepFault :
    Obligations.StatusRowsWriteAllThreeSlotsAndKeepFault := by
  intro i s t _ hp _ h
  rw [exec_of_statusRow i s hp] at h
  cases h
  exact ⟨rfl, rfl, rfl, rfl, rfl, rfl, fun _ _ _ _ _ => exec_of_statusRow i _ hp⟩

/-- Settles O28: both rows are the data-byte step, which writes one slot. -/
theorem dataRowsWriteOneSlotAndKeepTheRest : Obligations.DataRowsWriteOneSlotAndKeepTheRest := by
  intro i s t _ hp hs h
  rw [exec_of_dataRow hp hs] at h
  cases h
  refine ⟨?written, fun a ha => ?kept, dataByteStep_rem _ _ s, dataByteStep_msgValid _ _ s,
    dataByteStep_len _ _ s, dataByteStep_fault _ _ s, dataByteStep_inputs _ _ s,
    dataByteStep_drawn _ _ s⟩
  case written => rw [memRead_dataByteStep, memRead_memWrite_same]
  case kept => rw [memRead_dataByteStep, memRead_memWrite_other a _ _ s ha]

/-- An accepted byte is afterwards in the slot that the phase before selects (R32). -/
theorem memRead_slotOf_of_accepted {i : In} {s t : State} (ha : accepts i s = true)
    (h : cycle i s = .next t) : memRead (slotOf s) t = i.rxData := by
  by_cases hs : phaseOf s = .s
  · have hslot : slotOf s = .status := by rw [slotOf, hs]
    rw [cycle_status i s ha ((phaseOf_eq_s_iff s).1 hs)] at h
    cases h
    rw [hslot]
    rfl
  · obtain ⟨-, hp, he⟩ := decode_row (phaseOf s) i.rxData
    rw [cycle_accepted i s ha, exec_of_dataRow hp hs, he] at h
    cases h
    rw [memRead_dataByteStep, memRead_memWrite_same]

/-- Settles O29: the byte is accepted, in every phase; no accepted byte touches `FAULT`, and no
branch the later inputs. -/
theorem everyAcceptedByteIsStoredWhole : Obligations.EveryAcceptedByteIsStoredWhole := by
  intro s b rest hf hin
  obtain ⟨t, ht⟩ := step_answers_next s
  obtain ⟨hc, hrest⟩ := step_of_inputs hin ht
  refine ⟨t, ht, memRead_slotOf_of_accepted (s := { s with inputs := rest }) ?_ hc, ?_, hrest⟩
  · exact accepts_byte b hf
  · rw [cycle_fault hc]
    simp [In.byte, hf]

end Sys2Proof.Machine
end

section
/-! The equations of `frames` (R68), its growth with the list, and the count of bytes that an open
message still takes (R67); with the fold of `accept` for either parameter (R70). -/

namespace Sys2Proof.Machine

/-- Settles O47: at a boundary nothing is collected, so the fold frames the list alone. -/
theorem foldingAcceptGivesFramesWithEitherParameter :
    Obligations.FoldingAcceptGivesFramesWithEitherParameter := by
  intro p s bs hb
  rw [acceptAllWith_eq_frames (tracks_of_atBoundary p hb), collected_of_atBoundary hb,
    List.nil_append]

/-- A first byte with all its data bytes there. -/
theorem frames_of_complete (p : A0Len) (b : Byte) (r : List Byte)
    (h : (dlen p b).toNat ≤ r.length) :
    frames p (b :: r) =
      { status := b
        data1 := if (dlen p b).toNat = 0 then 0x00 else r.getD 0 0x00
        data2 := if (dlen p b).toNat = 2 then r.getD 1 0x00 else 0x00
        length := dlen p b } :: frames p (r.drop (dlen p b).toNat) := by
  rcases dlen_cases p b with hd | hd | hd
  · simp [frames_of_zero p b r hd, hd]
  · match r with
    | [] => simp [hd] at h
    | d :: r => simp [frames_of_one p b d r hd, hd]
  · match r with
    | [] | [_] => simp [hd] at h
    | d :: e :: r => simp [frames_of_two p b d e r hd, hd]

/-- More bytes at the end leave the messages there are as they are. -/
theorem frames_prefix_append (p : A0Len) (r r' : List Byte) :
    frames p r <+: frames p (r ++ r') := by
  fun_induction frames p r with
  | case1 => exact List.nil_prefix
  | case2 b r hd ih =>
    rw [List.cons_append, frames_of_zero p b _ (BitVec.eq_of_toNat_eq hd), List.prefix_cons_inj]
    exact ih
  | case3 b d r hd ih =>
    rw [List.cons_append, List.cons_append, frames_of_one p b d _ (BitVec.eq_of_toNat_eq hd),
      List.prefix_cons_inj]
    exact ih
  | case4 b d e r hd ih =>
    rw [List.cons_append, List.cons_append, List.cons_append,
      frames_of_two p b d e _ (BitVec.eq_of_toNat_eq hd), List.prefix_cons_inj]
    exact ih
  | case5 => exact List.nil_prefix

/-- Settles O40: a first byte with or without its data bytes, and a longer list by the recursion of
`frames`. -/
theorem framesEquationsAndPrefixMonotone : Obligations.FramesEquationsAndPrefixMonotone := by
  refine fun p => ⟨rfl, fun b r => ?equation, frames_prefix_append p, outstanding_of_incomplete p⟩
  case equation =>
    by_cases h : r.length < (dlen p b).toNat
    · rw [if_pos h, frames_of_incomplete p b r h]
    · rw [if_neg h, frames_of_complete p b r (Nat.le_of_not_lt h)]

/-- At most the data bytes of one message: the message is there exactly if all of them are. -/
theorem length_frames_of_le (p : A0Len) (b : Byte) (r : List Byte)
    (h : r.length ≤ (dlen p b).toNat) :
    (frames p (b :: r)).length = if r.length = (dlen p b).toNat then 1 else 0 := by
  split_ifs with he
  · rw [frames_of_complete p b r he.ge, ← he, List.drop_length]
    rfl
  · rw [frames_of_incomplete p b r (lt_of_le_of_ne h he)]
    rfl

/-- While a message is open, the bytes collected are its status byte and all data bytes but
`REM`. -/
theorem collected_of_open {p : A0Len} {s : State} (h : FramerInvWith p s) (hr : s.rem ≠ 0) :
    ∃ c, collected s = s.status :: c ∧ c.length + s.rem.toNat = (dlen p s.status).toNat := by
  have hd : s.len = dlen p s.status := h.2.1
  by_cases hl : s.rem = s.len
  · exact ⟨[], collected_of_phase_d1 (phaseOf_of_rem_len s hr hl), by simp [hl, hd]⟩
  · obtain ⟨h2, h1⟩ := counts_of_rem_ne_len h hr hl
    exact ⟨[s.data1], collected_of_phase_d2 (phaseOf_of_rem_ne_len s hr hl), by simp [← hd, h1, h2]⟩

/-- Settles O36: the bytes accepted are framed after those collected, which lack `REM`. -/
theorem openMessageClosesAfterExactlyRemBytes :
    Obligations.OpenMessageClosesAfterExactlyRemBytes := by
  intro s bs hinv hf hr hle
  obtain ⟨c, hc, hlen⟩ := collected_of_open hinv hr
  have hcount : (c ++ bs).length = (dlen Config.pA0Len s.status).toNat ↔
      bs.length = s.rem.toNat := by
    rw [List.length_append]
    omega
  rw [← acceptAllWith_pA0Len, acceptAllWith_eq_frames ⟨hf, fun _ => hinv⟩, hc, List.cons_append,
    length_frames_of_le _ _ _ (by rw [List.length_append]; omega)]
  simp only [hcount]

end Sys2Proof.Machine
end

section
/-! What the deliveries do not depend on: the state before a reset (R121), and at a message boundary
the residue of earlier messages (R24); and bytes that are whole messages, cycle by cycle (R129). -/

namespace Sys2Proof.Machine

/-! ### Two framers that face the same environment -/

@[simp] theorem popInput_inputs (s : State) : (popInput s).inputs = s.inputs.tail := by
  unfold popInput
  split <;> simp [*]

theorem popInput_drawn (s : State) :
    (popInput s).drawn = if s.inputs = [] then s.drawn + 1 else s.drawn := by
  unfold popInput
  split <;> simp [*]

theorem nextInput_congr {s s' : State} (hi : s.inputs = s'.inputs) (hd : s.drawn = s'.drawn) :
    nextInput s = nextInput s' := by
  simp only [nextInput, hi, hd]

theorem popInput_drawn_congr {s s' : State} (hi : s.inputs = s'.inputs)
    (hd : s.drawn = s'.drawn) : (popInput s).drawn = (popInput s').drawn := by
  simp only [popInput_drawn, hi, hd]

theorem popInput_inputs_congr {s s' : State} (hi : s.inputs = s'.inputs) :
    (popInput s).inputs = (popInput s').inputs := by
  simp only [popInput_inputs, hi]

theorem deliveries_congr {s s' : State} (h : step s = step s') (k : Nat) :
    deliveries k s = deliveries k s' := by
  cases k with
  | zero => rfl
  | succ k => simp only [deliveries, h]

theorem run_congr {s s' : State} (h : step s = step s') (k : Nat) :
    Host.Core.run Sys2Proof.core (k + 1) s = Host.Core.run Sys2Proof.core (k + 1) s' := by
  obtain ⟨t, ht⟩ := step_answers_next s'
  rw [run_succ k s t (h.trans ht), run_succ k s' t ht]

/-! ### After a reset -/

/-- Settles O5: the branch of `rst`, which goes before all others and reads no register. -/
theorem rstForcesResetStateFromAnyState : Obligations.RstForcesResetStateFromAnyState := by
  intro s e v d rest hin
  rw [step, nextInput_cons s _ _ hin, popInput_cons s _ _ hin]
  exact cycle_rst _ _ rfl

/-- A reset leads both framers to one state. -/
theorem step_rst_congr {s s' : State} (hi : s.inputs = s'.inputs) (hd : s.drawn = s'.drawn)
    (hr : (nextInput s).rst = true) : step s = step s' := by
  rw [step, step, ← nextInput_congr hi hd, cycle_rst _ _ hr, cycle_rst _ _ hr,
    resetRegisters_congr (popInput_inputs_congr hi) (popInput_drawn_congr hi hd)]

/-- Settles O6: after the reset cycle there is one state, and so one future. -/
theorem behaviourAfterResetDependsOnLaterInputsAlone :
    Obligations.BehaviourAfterResetDependsOnLaterInputsAlone := by
  intro s s' k hi hd hr
  have h := step_rst_congr hi hd hr
  exact ⟨deliveries_congr h _, run_congr h k⟩

/-! ### Residue at a message boundary -/

/-- No message is open in either state, and they agree but for `MSG_VALID` and the residue in the
buffer; faulted or not. -/
structure SameButResidue (s s' : State) : Prop where
  rem_left : s.rem = 0
  rem_right : s'.rem = 0
  fault : s.fault = s'.fault
  inputs : s.inputs = s'.inputs
  drawn : s.drawn = s'.drawn

theorem SameButResidue.after_popInput {s s' : State} (h : SameButResidue s s') :
    SameButResidue (popInput s) (popInput s') where
  rem_left := (popInput_rem s).trans h.rem_left
  rem_right := (popInput_rem s').trans h.rem_right
  fault := by rw [popInput_fault, popInput_fault, h.fault]
  inputs := popInput_inputs_congr h.inputs
  drawn := popInput_drawn_congr h.inputs h.drawn

/-- A reset and an accepted status byte wipe the residue out; every other cycle delivers nothing and
leaves it. -/
theorem SameButResidue.after_cycle {s s' : State} (h : SameButResidue s s') (i : In) :
    cycle i s = cycle i s' ∨
      ∃ t t', cycle i s = .next t ∧ cycle i s' = .next t' ∧
        delivered t = none ∧ delivered t' = none ∧ SameButResidue t t' := by
  have hacc : accepts i s' = accepts i s := by simp only [accepts, h.fault]
  cases hr : i.rst with
  | true =>
    left
    rw [cycle_rst i s hr, cycle_rst i s' hr, resetRegisters_congr h.inputs h.drawn]
  | false =>
    cases ha : accepts i s with
    | true =>
      left
      rw [cycle_status i s ha h.rem_left, cycle_status i s' (hacc.trans ha) h.rem_right]
      simp only [statusByteStep, h.fault, h.inputs, h.drawn]
    | false =>
      right
      refine ⟨_, _, cycle_of_not_accepted hr ha, cycle_of_not_accepted hr (hacc.trans ha),
        delivered_of_not_valid _ rfl, delivered_of_not_valid _ rfl, ?_⟩
      exact ⟨h.rem_left, h.rem_right, by rw [h.fault], h.inputs, h.drawn⟩

/-- The deliveries are the same for ever: the two runs go side by side until they meet. -/
theorem SameButResidue.deliveries_eq {s s' : State} (h : SameButResidue s s') (k : Nat) :
    deliveries k s = deliveries k s' := by
  induction k generalizing s s' with
  | zero => rfl
  | succ k ih =>
    have hin := nextInput_congr h.inputs h.drawn
    rcases h.after_popInput.after_cycle (nextInput s) with heq | ⟨t, t', ht, ht', hn, hn', htt⟩
    · refine deliveries_congr ?_ _
      rw [step, step, ← hin, heq]
    · have hs' : step s' = .next t' := by rw [step, ← hin, ht']
      rw [deliveries_succ k s t ht, deliveries_succ k s' t' hs', hn, hn', ih htt]

/-- Settles O39: two boundary states that face the same environment differ in residue only. -/
theorem residueOfEarlierMessagesIsNeverRead : Obligations.ResidueOfEarlierMessagesIsNeverRead := by
  rintro s s' k ⟨hf, hr⟩ ⟨hf', hr'⟩ hi hd
  exact SameButResidue.deliveries_eq ⟨hr, hr', hf.trans hf'.symm, hi, hd⟩ k

/-! ### Whole messages in consecutive cycles -/

/-- Settles O38, by induction on the bytes: each completes its message and leaves a boundary. -/
theorem consecutiveWholeMessagesAreDeliveredOneByOne :
    Obligations.ConsecutiveWholeMessagesAreDeliveredOneByOne := by
  intro s bs hb hd
  induction bs generalizing s with
  | nil => rfl
  | cons b bs ih =>
    obtain ⟨hd0, hds⟩ := List.forall_mem_cons.1 hd
    have hstep : step (place ((b :: bs).map In.byte) s) =
        .next (place (bs.map In.byte) (statusByteStep Config.pA0Len b s)) :=
      cycle_status (In.byte b) _ (accepts_byte b hb.1) hb.2
    have hdel : delivered (place (bs.map In.byte) (statusByteStep Config.pA0Len b s)) =
        some ⟨b, 0x00, 0x00, 0⟩ := delivered_statusByteStep_whole hd0
    have hb' : AtBoundary (statusByteStep Config.pA0Len b s) := ⟨hb.1, hd0⟩
    rw [List.length_cons, deliveries_succ _ _ _ hstep, hdel, ih _ hb' hds, List.map_cons]

end Sys2Proof.Machine
end
